-- ==== Sys2Proof/Word.lean ====
section
/-!
DEFINITION. The bit-vector types of the CHIP-8 CORE and their plainest arithmetic (spec/00_scope.md R8:
every value is an unsigned integer of a stated width; nothing is sign-extended).
-/

namespace Sys2Proof

/-- A byte: a general register, a timer, a memory cell, an immediate `kk` (R8, R21, R93). -/
abbrev Byte := BitVec 8

/-- A 16-bit word: an instruction word, `I`, `pc`, a stack entry (R24, R26, R28, R90). -/
abbrev Word := BitVec 16

/-- A 4-bit field: `op`, `x`, `y`, `n` (R91). -/
abbrev Nibble := BitVec 4

/-- The 12-bit field `nnn` (R91). -/
abbrev Imm12 := BitVec 12

/-- `zext_16` of R8, from any narrower width. -/
def zext16 {k : Nat} (b : BitVec k) : Word := b.setWidth 16

end Sys2Proof
end

