-- ==== Sys2Proof/Config.lean ====
section
/-!
DEFINITION. What is fixed for the machine (spec/00_scope.md R6) and the one free value (R44).

The three parameters the spec fills from general knowledge stand where a repair may mend them, each in a
definition of its own: OPCODE_VALUES in Sys2Proof/Decode.lean, FONT in Sys2Proof/Machine/Font.lean,
SPRITE_BIT_ORDER in Sys2Proof/Machine/Operands.lean (`spriteBit`).
-/

namespace Sys2Proof.Config

/-- `MEM_SIZE` of R6. -/
def memSize : Nat := 4096

/-- `PROG_BASE` of R6: where `load` puts the first byte. -/
def progBase : Nat := 0x200

/-- `RESET_PC` of R6. -/
def resetPc : Word := 0x200

/-- The random bytes that RND consumes, in the order it consumes them: the free step input `rnd` of
R44, "a draw under no law" (R172, R231; log entry 1). It has no body, so nothing can be proved of a value
of it. -/
opaque rndInput : Nat → Byte

end Sys2Proof.Config
end

