-- ==== Sys2Proof/Syntax.lean ====
section
/-!
DEFINITION. The instructions: one constructor per row of spec/opcode_table.json, in the order of the
table of spec/30_encoding.md R98, and the decoder's variants (R94). Operand fields have exactly the widths
of R91, so a register index cannot be out of range (R43 (c)).
-/

namespace Sys2Proof

/-- The 34 instructions of R98. -/
inductive Instr where
  /-- `CLS`, 00E0 (R190). -/
  | cls
  /-- `RET`, 00EE (R143). -/
  | ret
  /-- `JP nnn`, 1nnn (R142). -/
  | jp (nnn : Imm12)
  /-- `CALL nnn`, 2nnn (R141). -/
  | call (nnn : Imm12)
  /-- `SE Vx,kk`, 3xkk (R144). -/
  | seImm (x : Nibble) (kk : Byte)
  /-- `SNE Vx,kk`, 4xkk (R145). -/
  | sneImm (x : Nibble) (kk : Byte)
  /-- `SE Vx,Vy`, 5xy0 (R146). -/
  | seReg (x y : Nibble)
  /-- `LD Vx,kk`, 6xkk (R160). -/
  | ldImm (x : Nibble) (kk : Byte)
  /-- `ADD Vx,kk`, 7xkk (R161). -/
  | addImm (x : Nibble) (kk : Byte)
  /-- `LD Vx,Vy`, 8xy0 (R163). -/
  | ldReg (x y : Nibble)
  /-- `OR Vx,Vy`, 8xy1 (R164). -/
  | orReg (x y : Nibble)
  /-- `AND Vx,Vy`, 8xy2 (R165). -/
  | andReg (x y : Nibble)
  /-- `XOR Vx,Vy`, 8xy3 (R166). -/
  | xorReg (x y : Nibble)
  /-- `ADD Vx,Vy`, 8xy4 (R167). -/
  | addReg (x y : Nibble)
  /-- `SUB Vx,Vy`, 8xy5 (R168). -/
  | sub (x y : Nibble)
  /-- `SHR Vx`, 8xy6 (R169). `y` is kept because the word holds it; nothing reads it (R104; log entry 13). -/
  | shr (x y : Nibble)
  /-- `SUBN Vx,Vy`, 8xy7 (R170). -/
  | subn (x y : Nibble)
  /-- `SHL Vx`, 8xyE (R171). `y` is kept because the word holds it; nothing reads it (R104; log entry 13). -/
  | shl (x y : Nibble)
  /-- `SNE Vx,Vy`, 9xy0 (R147). -/
  | sneReg (x y : Nibble)
  /-- `LD I,nnn`, Annn (R180). -/
  | ldI (nnn : Imm12)
  /-- `JP V0,nnn`, Bnnn (R150). -/
  | jpV0 (nnn : Imm12)
  /-- `RND Vx,kk`, Cxkk (R172). -/
  | rnd (x : Nibble) (kk : Byte)
  /-- `DRW Vx,Vy,n`, Dxyn (R191). -/
  | drw (x y n : Nibble)
  /-- `SKP Vx`, Ex9E (R200). -/
  | skp (x : Nibble)
  /-- `SKNP Vx`, ExA1 (R201). -/
  | sknp (x : Nibble)
  /-- `LD Vx,DT`, Fx07 (R202). -/
  | ldVxDt (x : Nibble)
  /-- `LD Vx,K`, Fx0A (R203). -/
  | ldVxK (x : Nibble)
  /-- `LD DT,Vx`, Fx15 (R204). -/
  | ldDtVx (x : Nibble)
  /-- `LD ST,Vx`, Fx18 (R205). -/
  | ldStVx (x : Nibble)
  /-- `ADD I,Vx`, Fx1E (R181). -/
  | addI (x : Nibble)
  /-- `LD F,Vx`, Fx29 (R182). -/
  | ldF (x : Nibble)
  /-- `LD B,Vx`, Fx33 (R183). -/
  | ldB (x : Nibble)
  /-- `LD [I],Vx`, Fx55 (R184). -/
  | store (x : Nibble)
  /-- `LD Vx,[I]`, Fx65 (R185). -/
  | load (x : Nibble)
  deriving DecidableEq, Repr

/-- What the Decoder answers (R94): one of the 34 instructions, or the variant UNIMPLEMENTED(w). -/
inductive Variant where
  | instr (i : Instr)
  | unimplemented (w : Word)
  deriving DecidableEq, Repr

end Sys2Proof
end

