-- ==== Sys2Proof/WellFormed.lean ====
section
/-!
DEFINITION. Which variants are well formed. An instruction's operands carry their widths in their types
(spec/30_encoding.md R91), so every term of `Instr` is an instruction of the spec; the term that can be
ill formed is UNIMPLEMENTED(w), which stands only for the words of R99. The list of R99 is written here
from its own table, apart from the decoder, so that the two can be held against each other.
-/

namespace Sys2Proof

/-- Whether R99 lists the word as unimplemented, family by family: `op`, then the selector bits that
family has. -/
def isUnimplementedWord (w : Word) : Bool :=
  let op := w.toNat / 0x1000
  let n := w.toNat % 0x10
  let kk := w.toNat % 0x100
  if op = 0x0 then w.toNat ≠ 0x00E0 ∧ w.toNat ≠ 0x00EE
  else if op = 0x5 then n ≠ 0
  else if op = 0x8 then n ∈ [0x8, 0x9, 0xA, 0xB, 0xC, 0xD, 0xF]
  else if op = 0x9 then n ≠ 0
  else if op = 0xE then kk ∉ [0x9E, 0xA1]
  else if op = 0xF then kk ∉ [0x07, 0x0A, 0x15, 0x18, 0x1E, 0x29, 0x33, 0x55, 0x65]
  else false

/-- A variant of the decoder is well formed when it is an instruction, or UNIMPLEMENTED(w) for a word
that R99 lists. -/
def Variant.wellFormed : Variant → Bool
  | .instr _ => true
  | .unimplemented w => isUnimplementedWord w

/-- Every instruction term is well formed: R91 gives each operand exactly the width of its type. -/
def Instr.wellFormed (i : Instr) : Bool := (Variant.instr i).wellFormed

end Sys2Proof
end

