-- ==== Sys2Proof/Decode.lean ====
section
/-!
DEFINITION. Decoder and encoder, written from spec/30_encoding.md (R90 to R104). The numeric opcode
values are the spec's OPCODE_VALUES, which it marks as general knowledge (R96, D2, K1; log entry 3). The
table of R98 stands here as data beside the decoder; that the two agree is an obligation.
-/

namespace Sys2Proof

/-! ### Fields of the word (R91) -/

def opOf (w : Word) : Nibble := w.extractLsb' 12 4
def xOf (w : Word) : Nibble := w.extractLsb' 8 4
def yOf (w : Word) : Nibble := w.extractLsb' 4 4
def nOf (w : Word) : Nibble := w.extractLsb' 0 4
def kkOf (w : Word) : Byte := w.extractLsb' 0 8
def nnnOf (w : Word) : Imm12 := w.extractLsb' 0 12

/-! ### Words from fields: the formats of R92 -/

/-- Formats FIX, XYS and XYN: four nibbles, `op` the highest. -/
def wordXYN (op x y n : Nibble) : Word := op ++ x ++ y ++ n

/-- Formats XKK and XSS: `op`, `x` and a byte that is an operand or a selector. -/
def wordXKK (op x : Nibble) (kk : Byte) : Word := op ++ x ++ kk

/-- Format NNN. -/
def wordNNN (op : Nibble) (nnn : Imm12) : Word := op ++ nnn

/-! ### The decoder (R94, R95): total, pure, one variant for each of the 65536 words -/

/-- Family 0: all 16 bits are selector (R95). -/
def decode0 (w : Word) : Variant :=
  if w = 0x00E0#16 then .instr .cls
  else if w = 0x00EE#16 then .instr .ret
  else .unimplemented w

/-- Family 8: `n` selects (R95). -/
def decode8 (w : Word) : Variant :=
  match nOf w with
  | 0x0#4 => .instr (.ldReg (xOf w) (yOf w))
  | 0x1#4 => .instr (.orReg (xOf w) (yOf w))
  | 0x2#4 => .instr (.andReg (xOf w) (yOf w))
  | 0x3#4 => .instr (.xorReg (xOf w) (yOf w))
  | 0x4#4 => .instr (.addReg (xOf w) (yOf w))
  | 0x5#4 => .instr (.sub (xOf w) (yOf w))
  | 0x6#4 => .instr (.shr (xOf w) (yOf w))
  | 0x7#4 => .instr (.subn (xOf w) (yOf w))
  | 0xE#4 => .instr (.shl (xOf w) (yOf w))
  | _ => .unimplemented w

/-- Family E: `kk` selects (R95). -/
def decodeE (w : Word) : Variant :=
  match kkOf w with
  | 0x9E#8 => .instr (.skp (xOf w))
  | 0xA1#8 => .instr (.sknp (xOf w))
  | _ => .unimplemented w

/-- Family F: `kk` selects (R95). -/
def decodeF (w : Word) : Variant :=
  match kkOf w with
  | 0x07#8 => .instr (.ldVxDt (xOf w))
  | 0x0A#8 => .instr (.ldVxK (xOf w))
  | 0x15#8 => .instr (.ldDtVx (xOf w))
  | 0x18#8 => .instr (.ldStVx (xOf w))
  | 0x1E#8 => .instr (.addI (xOf w))
  | 0x29#8 => .instr (.ldF (xOf w))
  | 0x33#8 => .instr (.ldB (xOf w))
  | 0x55#8 => .instr (.store (xOf w))
  | 0x65#8 => .instr (.load (xOf w))
  | _ => .unimplemented w

/-- The decoder of R94, dispatching on `op` first (R95). Every word that matches no pattern is answered
by name, as UNIMPLEMENTED(w) (R99). -/
def decode (w : Word) : Variant :=
  match opOf w with
  | 0x0#4 => decode0 w
  | 0x1#4 => .instr (.jp (nnnOf w))
  | 0x2#4 => .instr (.call (nnnOf w))
  | 0x3#4 => .instr (.seImm (xOf w) (kkOf w))
  | 0x4#4 => .instr (.sneImm (xOf w) (kkOf w))
  | 0x5#4 => if nOf w = 0x0#4 then .instr (.seReg (xOf w) (yOf w)) else .unimplemented w
  | 0x6#4 => .instr (.ldImm (xOf w) (kkOf w))
  | 0x7#4 => .instr (.addImm (xOf w) (kkOf w))
  | 0x8#4 => decode8 w
  | 0x9#4 => if nOf w = 0x0#4 then .instr (.sneReg (xOf w) (yOf w)) else .unimplemented w
  | 0xA#4 => .instr (.ldI (nnnOf w))
  | 0xB#4 => .instr (.jpV0 (nnnOf w))
  | 0xC#4 => .instr (.rnd (xOf w) (kkOf w))
  | 0xD#4 => .instr (.drw (xOf w) (yOf w) (nOf w))
  | 0xE#4 => decodeE w
  | 0xF#4 => decodeF w
  | _ => .unimplemented w -- no 4-bit value is left

/-- The big-endian word of two bytes in address order (R61, R62). -/
def wordOfBytes (hi lo : Byte) : Word := hi ++ lo

/-- The decoder on the bytes of an instruction stream: the variant and the bytes after it, or nothing
where fewer than two bytes are left. Every instruction is two bytes (R90). -/
def decodeBytes : List Byte → Option (Variant × List Byte)
  | hi :: lo :: rest => some (decode (wordOfBytes hi lo), rest)
  | _ => none

/-! ### The encoder -/

/-- The word of an instruction, from the patterns of R98. -/
def encode : Instr → Word
  | .cls => 0x00E0#16
  | .ret => 0x00EE#16
  | .jp nnn => wordNNN 0x1 nnn
  | .call nnn => wordNNN 0x2 nnn
  | .seImm x kk => wordXKK 0x3 x kk
  | .sneImm x kk => wordXKK 0x4 x kk
  | .seReg x y => wordXYN 0x5 x y 0x0
  | .ldImm x kk => wordXKK 0x6 x kk
  | .addImm x kk => wordXKK 0x7 x kk
  | .ldReg x y => wordXYN 0x8 x y 0x0
  | .orReg x y => wordXYN 0x8 x y 0x1
  | .andReg x y => wordXYN 0x8 x y 0x2
  | .xorReg x y => wordXYN 0x8 x y 0x3
  | .addReg x y => wordXYN 0x8 x y 0x4
  | .sub x y => wordXYN 0x8 x y 0x5
  | .shr x y => wordXYN 0x8 x y 0x6
  | .subn x y => wordXYN 0x8 x y 0x7
  | .shl x y => wordXYN 0x8 x y 0xE
  | .sneReg x y => wordXYN 0x9 x y 0x0
  | .ldI nnn => wordNNN 0xA nnn
  | .jpV0 nnn => wordNNN 0xB nnn
  | .rnd x kk => wordXKK 0xC x kk
  | .drw x y n => wordXYN 0xD x y n
  | .skp x => wordXKK 0xE x 0x9E
  | .sknp x => wordXKK 0xE x 0xA1
  | .ldVxDt x => wordXKK 0xF x 0x07
  | .ldVxK x => wordXKK 0xF x 0x0A
  | .ldDtVx x => wordXKK 0xF x 0x15
  | .ldStVx x => wordXKK 0xF x 0x18
  | .addI x => wordXKK 0xF x 0x1E
  | .ldF x => wordXKK 0xF x 0x29
  | .ldB x => wordXKK 0xF x 0x33
  | .store x => wordXKK 0xF x 0x55
  | .load x => wordXKK 0xF x 0x65

/-- The word of a variant: UNIMPLEMENTED(w) stands for `w` itself. -/
def encodeVariant : Variant → Word
  | .instr i => encode i
  | .unimplemented w => w

/-- The two bytes of a word in address order, high byte first (R61). -/
def bytesOfWord (w : Word) : List Byte := [w.extractLsb' 8 8, w.extractLsb' 0 8]

/-! ### The opcode map of R98 as data -/

/-- One row of R98: its number, and `match` and `mask`; a word `w` is the row's instruction iff
`w & mask = match`. -/
structure OpRow where
  number : Nat
  bits : Word
  mask : Word
  deriving DecidableEq, Repr

/-- Rows 1 to 19 of R98. -/
def opcodeRowsLow : List OpRow :=
  [⟨1, 0x00E0, 0xFFFF⟩, ⟨2, 0x00EE, 0xFFFF⟩, ⟨3, 0x1000, 0xF000⟩, ⟨4, 0x2000, 0xF000⟩,
   ⟨5, 0x3000, 0xF000⟩, ⟨6, 0x4000, 0xF000⟩, ⟨7, 0x5000, 0xF00F⟩, ⟨8, 0x6000, 0xF000⟩,
   ⟨9, 0x7000, 0xF000⟩, ⟨10, 0x8000, 0xF00F⟩, ⟨11, 0x8001, 0xF00F⟩, ⟨12, 0x8002, 0xF00F⟩,
   ⟨13, 0x8003, 0xF00F⟩, ⟨14, 0x8004, 0xF00F⟩, ⟨15, 0x8005, 0xF00F⟩, ⟨16, 0x8006, 0xF00F⟩,
   ⟨17, 0x8007, 0xF00F⟩, ⟨18, 0x800E, 0xF00F⟩, ⟨19, 0x9000, 0xF00F⟩]

/-- Rows 20 to 34 of R98. -/
def opcodeRowsHigh : List OpRow :=
  [⟨20, 0xA000, 0xF000⟩, ⟨21, 0xB000, 0xF000⟩, ⟨22, 0xC000, 0xF000⟩, ⟨23, 0xD000, 0xF000⟩,
   ⟨24, 0xE09E, 0xF0FF⟩, ⟨25, 0xE0A1, 0xF0FF⟩, ⟨26, 0xF007, 0xF0FF⟩, ⟨27, 0xF00A, 0xF0FF⟩,
   ⟨28, 0xF015, 0xF0FF⟩, ⟨29, 0xF018, 0xF0FF⟩, ⟨30, 0xF01E, 0xF0FF⟩, ⟨31, 0xF029, 0xF0FF⟩,
   ⟨32, 0xF033, 0xF0FF⟩, ⟨33, 0xF055, 0xF0FF⟩, ⟨34, 0xF065, 0xF0FF⟩]

/-- `OPCODE_VALUES` (R7, R98): all 34 rows. -/
def opcodeTable : List OpRow := opcodeRowsLow ++ opcodeRowsHigh

/-- The number of the instruction's row in R98. -/
def Instr.rowNumber : Instr → Nat
  | .cls => 1 | .ret => 2 | .jp _ => 3 | .call _ => 4 | .seImm _ _ => 5 | .sneImm _ _ => 6
  | .seReg _ _ => 7 | .ldImm _ _ => 8 | .addImm _ _ => 9 | .ldReg _ _ => 10 | .orReg _ _ => 11
  | .andReg _ _ => 12 | .xorReg _ _ => 13 | .addReg _ _ => 14 | .sub _ _ => 15 | .shr _ _ => 16
  | .subn _ _ => 17 | .shl _ _ => 18 | .sneReg _ _ => 19 | .ldI _ => 20 | .jpV0 _ => 21
  | .rnd _ _ => 22 | .drw _ _ _ => 23 | .skp _ => 24 | .sknp _ => 25 | .ldVxDt _ => 26
  | .ldVxK _ => 27 | .ldDtVx _ => 28 | .ldStVx _ => 29 | .addI _ => 30 | .ldF _ => 31
  | .ldB _ => 32 | .store _ => 33 | .load _ => 34

/-! ### The host's numbering of an instruction's bits -/

/-- The instruction word whose bits the opcode table numbers: bit 0 is the least significant bit of the
one 16-bit word; bits at and above `nbits` are 0. -/
def tableWord (nbits w : Nat) : Word := BitVec.ofNat 16 (w % 2 ^ nbits)

/-- The instruction the decoder reads from the bytes of a table word, laid out as memory holds them. -/
def decodeTableWord (nbits w : Nat) : Option Instr :=
  match decodeBytes (bytesOfWord (tableWord nbits w)) with
  | some (.instr i, _) => some i
  | _ => none

end Sys2Proof
end

