-- ==== Sys2Proof/Machine/Font.lean ====
section
/-!
DEFINITION. The configuration parameter FONT (spec/20_memory.md R68, D13, K3): the spec marks the bytes as
general knowledge (log entry 2). Nothing but the reset contents of memory rests on them.
-/

namespace Sys2Proof.Machine

/-- Glyphs 0 to 7 (R68), five bytes each. -/
def fontLow : List Byte :=
  [0xF0, 0x90, 0x90, 0x90, 0xF0,
   0x20, 0x60, 0x20, 0x20, 0x70,
   0xF0, 0x10, 0xF0, 0x80, 0xF0,
   0xF0, 0x10, 0xF0, 0x10, 0xF0,
   0x90, 0x90, 0xF0, 0x10, 0x10,
   0xF0, 0x80, 0xF0, 0x10, 0xF0,
   0xF0, 0x80, 0xF0, 0x90, 0xF0,
   0xF0, 0x10, 0x20, 0x40, 0x40]

/-- Glyphs 8 to F (R68). -/
def fontHigh : List Byte :=
  [0xF0, 0x90, 0xF0, 0x90, 0xF0,
   0xF0, 0x90, 0xF0, 0x10, 0xF0,
   0xF0, 0x90, 0xF0, 0x90, 0x90,
   0xE0, 0x90, 0xE0, 0x90, 0xE0,
   0xF0, 0x80, 0x80, 0x80, 0xF0,
   0xE0, 0x90, 0x90, 0x90, 0xE0,
   0xF0, 0x80, 0xF0, 0x80, 0xF0,
   0xF0, 0x80, 0xF0, 0x80, 0x80]

/-- `FONT[0..79]` (R68): glyph `d` at `5*d .. 5*d+4`. -/
def font : List Byte := fontLow ++ fontHigh

end Sys2Proof.Machine
end

