-- ==== Sys2Proof/Machine/State.lean ====
section
/-!
DEFINITION. The state of the CHIP-8 CORE (spec/10_state.md R20), its fault records and outcomes, and the
state after reset (R42). State is plain data.
-/

namespace Sys2Proof.Machine

/-- `memory` (R29): the cells that differ from their reset contents, as (address, byte) pairs. Canonical
form (`Memory.wf` in Machine/Ops.lean): addresses strictly rising and below 4096, no entry equal to what an
unlisted address reads as. -/
abbrev Memory := List Host.Cell

/-- `V[0..15]` (R21). -/
abbrev Regs := Vector Byte 16

/-- `stack[0..15]` (R28). -/
abbrev Stack := Vector Word 16

/-- `screen` (R30): 32 rows of 64 one-bit pixels; column `c` of a row is bit `c` of the row (log entry 8).
All reads and writes go through `Screen.pixel` and `Screen.flip` (Machine/Operands.lean). -/
abbrev Screen := Vector (BitVec 64) 32

/-- `keypad[0..15]` (R31): the down-state of each logical key. -/
abbrev Keypad := Vector Bool 16

/-- A fatal error with the values it records (R211). Raised only by `raiseFault` (R213), which puts it in
`State.fault`, sets `State.halted` and answers a NEXT state, because the spec describes that state (R214):
no step of this model answers `Host.Outcome.fault`. -/
inductive Fault where
  /-- Code 1. Raised by RET when `sp = 0` (R143). Records the pc of the RET and its word. Safe: the original
  reads out of bounds here (93 U2), so only claims about a halted machine follow. -/
  | stackUnderflow (pc w : Word)
  /-- Code 2. Raised by CALL when `sp = 16` (R141). Records the pc of the CALL and its word. Safe, as code 1. -/
  | stackOverflow (pc w : Word)
  /-- Code 3. Raised by the fetch of any RUNNING step when `pc > 4094` (R122). Records the pc. Safe: the
  document itself makes it fatal (93 U9). -/
  | pcOutOfRange (pc : Word)
  /-- Code 4. Raised by DRW (`n >= 1`), LD B, LD [I] and LD Vx,[I] when a byte of `I .. I+len-1` is outside
  memory (R66). Records pc, word, I and len. Safe: the spec's decision D9 errs toward unprovable. -/
  | memIndexOutOfRange (pc w i : Word) (len : Nat)
  /-- Code 5. Raised by SKP and SKNP when `V[x] > 15` (R200, R201). Records pc, word and `V[x]`. Safe: the
  spec's decision D11 errs toward unprovable. -/
  | keyIndexOutOfRange (pc w : Word) (key : Byte)
  deriving DecidableEq, Repr

/-- Why a step has no meaning. -/
inductive Refusal where
  /-- Raised only by an arm of `exec` (Machine/Dispatch.lean) whose instruction has no meaning yet, with its
  mnemonic. Safe. No arm does. -/
  | notModelled (mnemonic : String)
  deriving DecidableEq, Repr

/-- The state (R20). The control state (R121) is HALTED when `halted`, else AWAITING(`target`) when
`awaiting`, else RUNNING. -/
structure State where
  /-- `memory` (R29). -/
  mem : Memory
  /-- `V[0..15]`; `V[15]` is the flag register VF (R21, R22). -/
  v : Regs
  /-- `I`, the index register (R26). -/
  i : Word
  /-- `pc` (R24): between steps the address of the next instruction; during phase 4 that of the instruction
  being executed. -/
  pc : Word
  /-- `sp`, 0 to 16 inclusive: the next free stack slot (R27, C2). -/
  sp : Fin 17
  /-- `stack[0..15]` (R28). -/
  stack : Stack
  /-- `screen` (R30). -/
  screen : Screen
  /-- `keypad[0..15]`, the input latch (R31). -/
  keypad : Keypad
  /-- `DT`, the delay timer (R32). -/
  dt : Byte
  /-- `ST`, the sound timer (R33). -/
  st : Byte
  /-- `awaiting` of the wait-gate (R34). -/
  awaiting : Bool
  /-- `target` of the wait-gate (R34). -/
  target : Nibble
  /-- `halted`, the halt latch (R35). -/
  halted : Bool
  /-- `fault`, the record of the first and only fault (R35, R218). -/
  fault : Option Fault
  /-- THE MODEL'S OWN, not the spec's: how many random bytes RND has consumed; it indexes
  `Config.rndInput`, the free input of R44 (log entry 1). -/
  rndCount : Nat
  deriving DecidableEq, Repr

/-- The state after reset (R42, R240): memory as unlisted addresses read (the font, then zeros), everything
else zero or false, `pc = 0x200`, RUNNING, no fault. -/
def State.reset : State where
  mem := []
  v := Vector.replicate 16 0
  i := 0
  pc := Config.resetPc
  sp := 0
  stack := Vector.replicate 16 0
  screen := Vector.replicate 32 0
  keypad := Vector.replicate 16 false
  dt := 0
  st := 0
  awaiting := false
  target := 0
  halted := false
  fault := none
  rndCount := 0

/-- What one call of the step, or of a meaning, answers. -/
abbrev Result := Host.Outcome State Fault Refusal

/-- The program-counter directive a handler returns (R10). -/
inductive Directive where
  | next
  | skip
  | jump (a : Word)
  deriving DecidableEq, Repr

/-- The report of an unimplemented word to the diagnostic sink: its address and the word (R216). -/
structure Diagnostic where
  pc : Word
  word : Word
  deriving DecidableEq, Repr

/-- What a step emits besides the next state (R216, R213, R124): outputs, stored nowhere. -/
structure StepOutput where
  diagnostic : Option Diagnostic
  fault : Option Fault
  deriving DecidableEq, Repr

end Sys2Proof.Machine
end

