-- ==== Sys2Proof/Machine/Ops.lean ====
section
/-!
DEFINITION. The named operations: memory (spec/20_memory.md), the return stack (R27, R28, R141, R143), the
directive dispatcher (R126), raising a fault (R213), the timers (R127) and the wait-gate (R123, R129).
-/

namespace Sys2Proof.Machine

/-! ### Memory -/

/-- What an unlisted address reads as: the reset contents of R42, the font at 0..79 and 0 above it. -/
def Memory.unlisted (a : Nat) : Byte := font.getD a 0

/-- The byte stored at an address. Every access of the machine is inside 0..4095: `State.memRead`,
`State.loadBytes` and the fetch test the address first. -/
def Memory.read (m : Memory) (a : Nat) : Byte :=
  match m with
  | [] => Memory.unlisted a
  | c :: rest => if c.1 = a then c.2 else Memory.read rest a

/-- The memory with no entry for an address. -/
def Memory.without (m : Memory) (a : Nat) : Memory := m.filter fun c => decide (c.1 ≠ a)

/-- The memory with an entry put in before the first entry of a higher address. -/
def Memory.put (m : Memory) (a : Nat) (b : Byte) : Memory :=
  match m with
  | [] => [(a, b)]
  | c :: rest => if a < c.1 then (a, b) :: c :: rest else c :: Memory.put rest a b

/-- The memory after one byte is stored, in canonical form again. -/
def Memory.write (m : Memory) (a : Nat) (b : Byte) : Memory :=
  if b = Memory.unlisted a then m.without a else (m.without a).put a b

/-- The canonical form: addresses strictly rising and inside memory, no entry equal to what an unlisted
address reads as. -/
def Memory.wf (m : Memory) : Bool :=
  decide (m.Pairwise fun c d => c.1 < d.1) &&
    m.all fun c => decide (c.1 < Config.memSize) && decide (c.2 ≠ Memory.unlisted c.1)

/-- The `len` bytes at `base`, ascending. -/
def Memory.readBytes (m : Memory) (base : Nat) : Nat → List Byte
  | 0 => []
  | len + 1 => m.read base :: Memory.readBytes m (base + 1) len

/-- The memory after bytes are stored from `base` upwards. -/
def Memory.writeBytes (m : Memory) (base : Nat) : List Byte → Memory
  | [] => m
  | b :: rest => Memory.writeBytes (m.write base b) (base + 1) rest

/-- The bounds check of R66, on natural numbers: `len` bytes from `base` lie inside memory. An access of no
byte is never tested. -/
def inRange (base len : Nat) : Bool := decide (len = 0 ∨ base + len - 1 ≤ 4095)

def State.setMem (s : State) (m : Memory) : State := { s with mem := m }

/-- `MemRead(addr, 1)` of R63: nothing outside 0..4095. -/
def State.memRead (s : State) (addr : Nat) : Option Byte :=
  if addr ≤ 4095 then some (s.mem.read addr) else none

/-- The data reads of `I .. I+len-1` after the check of R66. -/
def State.loadBytes (s : State) (base len : Nat) : Option (List Byte) :=
  if inRange base len then some (s.mem.readBytes base len) else none

/-- The data writes of bytes from `base` upwards after the check of R66. `MemWrite(addr, 1, val)` of R64 is the
store of one byte. -/
def State.storeBytes (s : State) (base : Nat) (bytes : List Byte) : Option State :=
  if inRange base bytes.length then some (s.setMem (s.mem.writeBytes base bytes)) else none

/-- `Fetch16(addr)` of R62, big-endian (R61); nothing when a byte is outside memory, that is when
`addr > 4094`. -/
def State.fetch16 (s : State) (addr : Nat) : Option Word :=
  match s.memRead addr, s.memRead (addr + 1) with
  | some hi, some lo => some (wordOfBytes hi lo)
  | _, _ => none

/-! ### The directive dispatcher, the only writer of pc (R126) -/

def State.setPc (s : State) (a : Word) : State := { s with pc := a }

/-- Phase 5 (R126). -/
def applyDirective (d : Directive) (s : State) : State :=
  match d with
  | .next => s.setPc (s.pc + 2)
  | .skip => s.setPc (s.pc + 4)
  | .jump a => s.setPc a

/-- The end of a handler that raised nothing: phase 5 on the state it left. -/
def complete (d : Directive) (s : State) : Result := .next (applyDirective d s)

/-- The end of a conditional skip (R140 (e)): `Skip` when the condition holds, else `Next`. -/
def skipIf (c : Bool) (s : State) : Result := complete (if c then .skip else .next) s

/-! ### Raising a fault (R213, R214) -/

/-- The fault latch (R213): the record, and the halt. -/
def State.recordFault (s : State) (f : Fault) : State := { s with fault := some f, halted := true }

/-- `raise Fault`: the step ends here, with `pc` still the address of the instruction. There is no return
from a fault (R218); only reset leaves HALTED. -/
def raiseFault (f : Fault) (s : State) : Result := .next (s.recordFault f)

/-- The numeric fault code of R211. -/
def Fault.code : Fault → Nat
  | .stackUnderflow _ _ => 1
  | .stackOverflow _ _ => 2
  | .pcOutOfRange _ => 3
  | .memIndexOutOfRange _ _ _ _ => 4
  | .keyIndexOutOfRange _ _ _ => 5

/-- The `MemIndexOutOfRange` of R66 for an access of `len` bytes at `I` by the instruction `ins`. -/
def raiseMemFault (ins : Instr) (len : Nat) (s : State) : Result :=
  raiseFault (.memIndexOutOfRange s.pc (encode ins) s.i len) s

/-! ### The return stack (R27, R28) -/

/-- Post-increment push (R141): nothing when the stack is full. -/
def State.push (s : State) (a : Word) : Option State :=
  if h : s.sp.val < 16 then
    some { s with stack := s.stack.set s.sp.val a h, sp := ⟨s.sp.val + 1, by omega⟩ }
  else none

/-- Pre-decrement pop (R143): nothing when the stack is empty. The popped slot keeps its value. -/
def State.pop (s : State) : Option (Word × State) :=
  if h : s.sp.val = 0 then none
  else
    some (s.stack[s.sp.val - 1]'(by omega), { s with sp := ⟨s.sp.val - 1, by omega⟩ })

/-! ### Timers (R127) -/

/-- One count down, floored at 0. -/
def countDown (t : Byte) : Byte := if t = 0 then 0 else t - 1

/-- Phase 2 of a RUNNING step (R127). -/
def State.tickTimers (s : State) : State := { s with dt := countDown s.dt, st := countDown s.st }

def State.setDt (s : State) (b : Byte) : State := { s with dt := b }

def State.setSt (s : State) (b : Byte) : State := { s with st := b }

/-! ### The wait-gate (R34) -/

/-- Phase 6: entering AWAITING(x) (R129). -/
def State.enterWait (s : State) (x : Nibble) : State := { s with awaiting := true, target := x }

/-- Leaving the wait: `awaiting` is cleared, `target` stays as it was (R34, R123). -/
def State.endWait (s : State) : State := { s with awaiting := false }

/-- The least key that is down, scanning in ascending order (R123). -/
def lowestKey (keys : Keypad) : Option Nat := keys.toList.findIdx? (· == true)

/-! ### The random input (R44) -/

/-- The `rnd` that the next RND consumes. -/
def State.rndByte (s : State) : Byte := Config.rndInput s.rndCount

/-- The draw is consumed. -/
def State.consumeRnd (s : State) : State := { s with rndCount := s.rndCount + 1 }

end Sys2Proof.Machine
end

