-- ==== Sys2Proof/Machine/Operands.lean ====
section
/-!
DEFINITION. Operand forms: general registers (spec/10_state.md R21), the index register (R26), the register
blocks of the transfers (R184, R185), the pixels of the frame buffer (R30, R191) and the keys (R31).
-/

namespace Sys2Proof.Machine

/-! ### General registers -/

/-- Read `V[x]` (R9, R21). -/
def State.getV (s : State) (x : Nibble) : Byte := s.v[x.toNat]'(x.isLt)

/-- `V[x] <- val` (R9, R21): no register is hardwired, `VF` included. -/
def State.setV (s : State) (x : Nibble) (val : Byte) : State :=
  { s with v := s.v.set x.toNat val x.isLt }

/-- `VF`, register 15 (R9). -/
def vf : Nibble := 0xF

/-! ### The index register -/

def State.setI (s : State) (a : Word) : State := { s with i := a }

/-! ### Register blocks -/

/-- The values of `V0..Vx`, ascending (R184). -/
def State.getBlock (s : State) (x : Nibble) : List Byte := s.v.toList.take (x.toNat + 1)

/-- `V0, V1, ...` take the bytes in order; registers past the last byte keep their values (R185). -/
def State.setBlock (s : State) (bytes : List Byte) : State :=
  { s with v := Vector.ofFn fun k : Fin 16 => bytes.getD k.val s.v[k] }

/-! ### The frame buffer -/

def State.setScreen (s : State) (g : Screen) : State := { s with screen := g }

/-- The clear screen (R190). -/
def Screen.clear : Screen := Vector.replicate 32 0

/-- The pixel at row `r` modulo 32, column `c` modulo 64 (R191: coordinates wrap, not clip). -/
def Screen.pixel (g : Screen) (r c : Nat) : Bool :=
  (g[r % 32]'(Nat.mod_lt _ (by decide))).getLsbD (c % 64)

/-- XOR of that pixel with 1. -/
def Screen.flip (g : Screen) (r c : Nat) : Screen :=
  g.set (r % 32) (g[r % 32]'(Nat.mod_lt _ (by decide)) ^^^ BitVec.twoPow 64 (c % 64))
    (Nat.mod_lt _ (by decide))

/-- SPRITE_BIT_ORDER (R191 (a), D12, K2; log entry 4): column `col` of a sprite row is bit `7 - col`, the
most significant bit leftmost. -/
def spriteBit (b : Byte) (col : Nat) : Bool := b.getLsbD (7 - col)

/-! ### Keys -/

/-- `keypad[k]` for the VALUE of a register; nothing when it is above 15 (R38, R200). -/
def State.key (s : State) (k : Byte) : Option Bool := s.keypad[k.toNat]?

end Sys2Proof.Machine
end

