-- ==== Sys2Proof/Machine/Flags.lean ====
section
/-!
DEFINITION. Results and flags. The one flag is the register VF, written whole with 0 or 1
(spec/10_state.md R22, R23); the arithmetic laws are those of spec/42_alu.md R173, stated on exact natural
numbers and then narrowed.
-/

namespace Sys2Proof.Machine

/-- A flag as the byte VF takes (R22). -/
def flagByte (c : Bool) : Byte := if c then 1 else 0

/-- Carry out of the 8-bit addition (R167, R173). -/
def addCarry (a b : Byte) : Bool := decide (a.toNat + b.toNat > 255)

/-- `trunc_8(a + b)` (R161, R167, R173). -/
def addResult (a b : Byte) : Byte := BitVec.ofNat 8 (a.toNat + b.toNat)

/-- The subtract flag: `a > b` STRICTLY, so equal operands give 0 (R168, R170, R173, R252). -/
def subFlag (a b : Byte) : Bool := decide (a.toNat > b.toNat)

/-- `trunc_8(a - b)`: `a - b`, or `a - b + 256` when `a < b` (R168, R170, R173). -/
def subResult (a b : Byte) : Byte := BitVec.ofNat 8 (a.toNat + 256 - b.toNat)

/-- The bit a right shift by one shifts out (R169, R173). -/
def shrFlag (a : Byte) : Bool := a.getLsbD 0

/-- `a >> 1`, logical (R169, R173). -/
def shrResult (a : Byte) : Byte := BitVec.ofNat 8 (a.toNat / 2)

/-- The bit a left shift by one shifts out (R171, R173). -/
def shlFlag (a : Byte) : Bool := a.getLsbD 7

/-- `trunc_8(a << 1)` (R171, R173). -/
def shlResult (a : Byte) : Byte := BitVec.ofNat 8 (a.toNat * 2)

/-- Carry out of bit 15 of `I + Vx` (R181). -/
def indexCarry (i : Word) (b : Byte) : Bool := decide (i.toNat + b.toNat > 65535)

/-- `trunc_16(I + zext_16(Vx))` (R181). -/
def indexSum (i : Word) (b : Byte) : Word := BitVec.ofNat 16 (i.toNat + b.toNat)

/-- `VF` as a flag. -/
def State.setFlag (s : State) (c : Bool) : State := s.setV vf (flagByte c)

/-- The write order of R162 (D7): the result to `V[x]`, then, last, the flag to VF. The sources were read
by the caller. -/
def State.setVFlag (s : State) (x : Nibble) (result : Byte) (flag : Bool) : State :=
  (s.setV x result).setFlag flag

/-- The three decimal digits of a byte, hundreds first (R61, R183). -/
def bcdDigits (a : Byte) : List Byte :=
  [BitVec.ofNat 8 (a.toNat / 100), BitVec.ofNat 8 (a.toNat / 10 % 10), BitVec.ofNat 8 (a.toNat % 10)]

end Sys2Proof.Machine
end

