-- ==== Sys2Proof/Machine/Alu.lean ====
section
/-!
DEFINITION. The ALU instructions (spec/42_alu.md): each reads its sources, writes its result, writes its flag
last where it defines one (R162), and returns `Next`. None can fault.
-/

namespace Sys2Proof.Machine

/-- `LD Vx,kk` (R160). -/
def execLdImm (x : Nibble) (kk : Byte) (s : State) : Result := complete .next (s.setV x kk)

/-- `ADD Vx,kk` (R161): no flag. -/
def execAddImm (x : Nibble) (kk : Byte) (s : State) : Result :=
  complete .next (s.setV x (addResult (s.getV x) kk))

/-- `LD Vx,Vy` (R163). -/
def execLdReg (x y : Nibble) (s : State) : Result := complete .next (s.setV x (s.getV y))

/-- `OR Vx,Vy` (R164): VF untouched. -/
def execOrReg (x y : Nibble) (s : State) : Result :=
  complete .next (s.setV x (s.getV x ||| s.getV y))

/-- `AND Vx,Vy` (R165): VF untouched. -/
def execAndReg (x y : Nibble) (s : State) : Result :=
  complete .next (s.setV x (s.getV x &&& s.getV y))

/-- `XOR Vx,Vy` (R166): VF untouched. -/
def execXorReg (x y : Nibble) (s : State) : Result :=
  complete .next (s.setV x (s.getV x ^^^ s.getV y))

/-- `ADD Vx,Vy` (R167). -/
def execAddReg (x y : Nibble) (s : State) : Result :=
  complete .next
    (s.setVFlag x (addResult (s.getV x) (s.getV y)) (addCarry (s.getV x) (s.getV y)))

/-- `SUB Vx,Vy` (R168). -/
def execSub (x y : Nibble) (s : State) : Result :=
  complete .next
    (s.setVFlag x (subResult (s.getV x) (s.getV y)) (subFlag (s.getV x) (s.getV y)))

/-- `SHR Vx` (R169): `y` is ignored (R104). -/
def execShr (x _y : Nibble) (s : State) : Result :=
  complete .next (s.setVFlag x (shrResult (s.getV x)) (shrFlag (s.getV x)))

/-- `SUBN Vx,Vy` (R170). -/
def execSubn (x y : Nibble) (s : State) : Result :=
  complete .next
    (s.setVFlag x (subResult (s.getV y) (s.getV x)) (subFlag (s.getV y) (s.getV x)))

/-- `SHL Vx` (R171): `y` is ignored (R104). -/
def execShl (x _y : Nibble) (s : State) : Result :=
  complete .next (s.setVFlag x (shlResult (s.getV x)) (shlFlag (s.getV x)))

/-- `RND Vx,kk` (R172): the free input `rnd` (R44), masked. -/
def execRnd (x : Nibble) (kk : Byte) (s : State) : Result :=
  complete .next (s.consumeRnd.setV x (s.rndByte &&& kk))

end Sys2Proof.Machine
end

