-- ==== Sys2Proof/Machine/Control.lean ====
section
/-!
DEFINITION. Control transfer, skips and the unimplemented word (spec/41_control_transfer.md). Each meaning is
phases 4 and 5 of a step: `pc` is the address of the instruction, and the directive is applied last.
-/

namespace Sys2Proof.Machine

/-- `RET` (R143). -/
def execRet (s : State) : Result :=
  match s.pop with
  | some (a, t) => complete (.jump a) t
  | none => raiseFault (.stackUnderflow s.pc (encode .ret)) s

/-- `JP nnn` (R142). -/
def execJp (nnn : Imm12) (s : State) : Result := complete (.jump (zext16 nnn)) s

/-- `CALL nnn` (R141). -/
def execCall (nnn : Imm12) (s : State) : Result :=
  match s.push (s.pc + 2) with
  | some t => complete (.jump (zext16 nnn)) t
  | none => raiseFault (.stackOverflow s.pc (encode (.call nnn))) s

/-- `SE Vx,kk` (R144). -/
def execSeImm (x : Nibble) (kk : Byte) (s : State) : Result := skipIf (s.getV x == kk) s

/-- `SNE Vx,kk` (R145). -/
def execSneImm (x : Nibble) (kk : Byte) (s : State) : Result := skipIf (s.getV x != kk) s

/-- `SE Vx,Vy` (R146). -/
def execSeReg (x y : Nibble) (s : State) : Result := skipIf (s.getV x == s.getV y) s

/-- `SNE Vx,Vy` (R147). -/
def execSneReg (x y : Nibble) (s : State) : Result := skipIf (s.getV x != s.getV y) s

/-- `JP V0,nnn` (R150): the sum is not reduced to 12 bits (D22). -/
def execJpV0 (nnn : Imm12) (s : State) : Result :=
  complete (.jump (zext16 nnn + zext16 (s.getV 0))) s

/-- `UNIMPLEMENTED(w)` (R149): a no-op with `Next`. Its report is `unimplementedReport`. -/
def execUnimplemented (_w : Word) (s : State) : Result := complete .next s

/-- `report Unimplemented(pc, w)` (R216): an output of the step. -/
def unimplementedReport (w : Word) (s : State) : Diagnostic := ⟨s.pc, w⟩

end Sys2Proof.Machine
end

