-- ==== Sys2Proof/Machine/Display.lean ====
section
/-!
DEFINITION. The display instructions (spec/44_display.md), the only two writers of the frame buffer (R192).
-/

namespace Sys2Proof.Machine

/-- `CLS` (R190): VF is not touched. -/
def execCls (s : State) : Result := complete .next (s.setScreen Screen.clear)

/-- One sprite bit at row `r`, column `c` (R191): a 1 bit inverts the pixel and, when the pixel was set,
marks a collision; a 0 bit does nothing. The accumulator is the screen and the collision so far. -/
def drawBit (bit : Bool) (r c : Nat) (acc : Screen × Bool) : Screen × Bool :=
  if bit then (acc.1.flip r c, acc.2 || acc.1.pixel r c) else acc

/-- The 8 columns of one sprite row (R191). -/
def drawRow (b : Byte) (r cx : Nat) (acc : Screen × Bool) : Screen × Bool :=
  (List.range 8).foldl (fun acc col => drawBit (spriteBit b col) r (cx + col) acc) acc

/-- The sprite's rows from the top down (R191): `r` is the row of the first byte. -/
def drawRows (r cx : Nat) : List Byte → Screen × Bool → Screen × Bool
  | [], acc => acc
  | b :: rest, acc => drawRows (r + 1) cx rest (drawRow b r cx acc)

/-- `DRW Vx,Vy,n` (R191): both coordinates are latched before VF is written (D7); VF is the collision. -/
def execDrw (x y n : Nibble) (s : State) : Result :=
  match s.loadBytes s.i.toNat n.toNat with
  | some bytes =>
    let drawn := drawRows (s.getV y).toNat (s.getV x).toNat bytes (s.screen, false)
    complete .next ((s.setScreen drawn.1).setFlag drawn.2)
  | none => raiseMemFault (.drw x y n) n.toNat s

end Sys2Proof.Machine
end

