-- ==== Sys2Proof/Machine/IndexMemory.lean ====
section
/-!
DEFINITION. The index register and memory instructions (spec/43_index_memory.md). An access is `I + k` on
natural numbers; the whole range is checked before anything changes (R66, R186), and `I` stays.
-/

namespace Sys2Proof.Machine

/-- `LD I,nnn` (R180). -/
def execLdI (nnn : Imm12) (s : State) : Result := complete .next (s.setI (zext16 nnn))

/-- `ADD I,Vx` (R181): VF is 1 on carry out of bit 15 and 0 otherwise (D8), written last (R162). -/
def execAddI (x : Nibble) (s : State) : Result :=
  complete .next ((s.setI (indexSum s.i (s.getV x))).setFlag (indexCarry s.i (s.getV x)))

/-- `LD F,Vx` (R182): the whole byte times 5. -/
def execLdF (x : Nibble) (s : State) : Result :=
  complete .next (s.setI (BitVec.ofNat 16 ((s.getV x).toNat * 5)))

/-- `LD B,Vx` (R183). -/
def execLdB (x : Nibble) (s : State) : Result :=
  match s.storeBytes s.i.toNat (bcdDigits (s.getV x)) with
  | some t => complete .next t
  | none => raiseMemFault (.ldB x) 3 s

/-- `LD [I],Vx` (R184): `V0..Vx` inclusive. -/
def execStore (x : Nibble) (s : State) : Result :=
  match s.storeBytes s.i.toNat (s.getBlock x) with
  | some t => complete .next t
  | none => raiseMemFault (.store x) (x.toNat + 1) s

/-- `LD Vx,[I]` (R185): `V0..Vx` inclusive. -/
def execLoad (x : Nibble) (s : State) : Result :=
  match s.loadBytes s.i.toNat (x.toNat + 1) with
  | some bytes => complete .next (s.setBlock bytes)
  | none => raiseMemFault (.load x) (x.toNat + 1) s

end Sys2Proof.Machine
end

