-- ==== Sys2Proof/Machine/KeypadTimers.lean ====
section
/-!
DEFINITION. The keypad and timer instructions (spec/45_keypad_timers.md). None is privileged: the machine has
one mode (R220).
-/

namespace Sys2Proof.Machine

/-- `SKP Vx` (R200): a level read of the latch; a value above 15 faults (D11). -/
def execSkp (x : Nibble) (s : State) : Result :=
  match s.key (s.getV x) with
  | some down => skipIf down s
  | none => raiseFault (.keyIndexOutOfRange s.pc (encode (.skp x)) (s.getV x)) s

/-- `SKNP Vx` (R201). -/
def execSknp (x : Nibble) (s : State) : Result :=
  match s.key (s.getV x) with
  | some down => skipIf (!down) s
  | none => raiseFault (.keyIndexOutOfRange s.pc (encode (.sknp x)) (s.getV x)) s

/-- `LD Vx,DT` (R202): the value after this step's countdown. -/
def execLdVxDt (x : Nibble) (s : State) : Result := complete .next (s.setV x s.dt)

/-- `LD Vx,K` (R203): its own step only enters the wait, after `Next` was applied (R129); the load is made
by the AWAITING step (R123). -/
def execLdVxK (x : Nibble) (s : State) : Result :=
  .next ((applyDirective .next s).enterWait x)

/-- `LD DT,Vx` (R204). -/
def execLdDtVx (x : Nibble) (s : State) : Result := complete .next (s.setDt (s.getV x))

/-- `LD ST,Vx` (R205). -/
def execLdStVx (x : Nibble) (s : State) : Result := complete .next (s.setSt (s.getV x))

end Sys2Proof.Machine
end

