-- ==== Sys2Proof/Machine/Cycle.lean ====
section
/-!
DEFINITION. The Cycle Controller (spec/40_cycle_and_dispatch.md): the three kinds of step and their order
(R121), the outputs of a step, and placing an instruction where the next step fetches.
-/

namespace Sys2Proof.Machine

/-- The HALTED step changes nothing (R124). -/
def haltedStep (s : State) : Result := .next s

/-- The AWAITING step (R123): the least down key goes to `V[target]` and the wait ends; with no key down
nothing changes. No timer counts and nothing is fetched. -/
def awaitingStep (s : State) : Result :=
  match lowestKey s.keypad with
  | some k => .next (s.setV s.target (BitVec.ofNat 8 k)).endWait
  | none => .next s

/-- Phases 4 to 6 for a decoded variant (R125). -/
def execVariant (v : Variant) (s : State) : Result :=
  match v with
  | .instr i => exec i s
  | .unimplemented w => execUnimplemented w s

/-- The RUNNING step (R121): timers (R127), fetch (R122), decode (R125), execute. The fetch is made after the
countdown, so a fault keeps the countdown (D16). -/
def runningStep (s : State) : Result :=
  match s.tickTimers.fetch16 s.pc.toNat with
  | some w => execVariant (decode w) s.tickTimers
  | none => raiseFault (.pcOutOfRange s.pc) s.tickTimers

/-- One step (R121): HALTED, then AWAITING, then RUNNING. -/
def cycle (s : State) : Result :=
  if s.halted then haltedStep s
  else if s.awaiting then awaitingStep s
  else runningStep s

/-- The diagnostic a step emits (R216): one report exactly when the step fetches an unimplemented word. -/
def stepDiagnostic (s : State) : Option Diagnostic :=
  if s.halted || s.awaiting then none
  else
    match s.fetch16 s.pc.toNat with
    | some w =>
      match decode w with
      | .unimplemented u => some (unimplementedReport u s)
      | .instr _ => none
    | none => none

/-- The fault the host sees in a state (R213, R124): the recorded one, when the machine is halted. -/
def faultReport (s : State) : Option Fault := if s.halted then s.fault else none

/-- The outputs of a step (R216, R213): a HALTED step reports the recorded fault again (R124). -/
def stepOutput (s : State) : StepOutput where
  diagnostic := stepDiagnostic s
  fault :=
    match cycle s with
    | .next t => faultReport t
    | .fault _ => none
    | .refused _ => none

/-- The state with a word stored where the next step fetches, big-endian (R61, R62). In a RUNNING state with
`pc <= 4094` only those two bytes change. In any other state no instruction is about to be fetched, and what
the fetch needs is set too: RUNNING, and `pc` at the program base when it is out of range. -/
def placeWord (s : State) (w : Word) : State :=
  let at' := if s.pc.toNat ≤ 4094 then s.pc else Config.resetPc
  { s with
    pc := at'
    awaiting := false
    halted := false
    fault := if s.halted then none else s.fault
    mem := s.mem.writeBytes at'.toNat (bytesOfWord w) }

end Sys2Proof.Machine
end

