-- ==== Sys2Proof/Machine/Step.lean ====
section
/-!
DEFINITION. The step (spec/40_cycle_and_dispatch.md R121), and the host's way to place one instruction. Both
only call Machine/Cycle.lean.
-/

namespace Sys2Proof.Machine

/-- One call of the step operation. -/
def step (s : State) : Host.Outcome State Fault Refusal := cycle s

/-- The state with the table word stored where `step` fetches its next instruction. A program comes to run by
the host operation `load` (R243), which this stands for (log entry 9). -/
def State.withFetchWord (s : State) (nbits w : Nat) : State := placeWord s (tableWord nbits w)

end Sys2Proof.Machine
end

