-- ==== Sys2Proof/Machine/Interface.lean ====
section
/-!
DEFINITION. The host's operations at the CORE's boundary (spec/60_exceptions.md R226): atomic, totally ordered,
between steps (R41). A run of the machine is a list of them (R120).
-/

namespace Sys2Proof.Machine

/-- The copy of `load(bytes)` (R243) from address `a` upwards: a byte whose address is past 4095 is dropped. -/
def Memory.loadFrom (m : Memory) (a : Nat) : List Byte → Memory
  | [] => m
  | b :: rest => Memory.loadFrom (if a ≤ 4095 then m.write a b else m) (a + 1) rest

/-- `load(bytes)` (R243): from 0x200 upwards, nothing else in the state. -/
def State.loadProgram (s : State) (bytes : List Byte) : State :=
  s.setMem (s.mem.loadFrom Config.progBase bytes)

/-- `set_keypad(bits)` (R228): replaces the whole latch, in any control state, and changes nothing else. -/
def State.setKeypad (s : State) (keys : Keypad) : State := { s with keypad := keys }

/-- Framebuffer read (R229): 2048 values, row-major, in the order `r*64 + c` (R30). -/
def framebuffer (s : State) : List Bool :=
  (List.range 32).flatMap fun r => (List.range 64).map fun c => s.screen.pixel r c

/-- The tone the host hears (R230): on exactly while `ST > 0`. -/
def tone (s : State) : Bool := decide (s.st.toNat > 0)

/-- The operations of the host that can change the state (R226, R41). -/
inductive HostOp where
  /-- Construct a fresh State (R240, R242). The random input is not in the CORE (R231), so the model's count of
  draws goes on (log entry 1). -/
  | reset
  /-- `load(bytes)` (R243). A second load overlays (R244, D24); the model gives it R243's meaning. -/
  | load (bytes : List Byte)
  /-- `set_keypad` (R228). -/
  | setKeypad (keys : Keypad)
  /-- One step; its random byte is the free value of R44. -/
  | step
  deriving DecidableEq, Repr

/-- One host operation as an atomic transition (R41). -/
def applyOp (op : HostOp) (s : State) : Result :=
  match op with
  | .reset => .next { State.reset with rndCount := s.rndCount }
  | .load bytes => .next (s.loadProgram bytes)
  | .setKeypad keys => .next (s.setKeypad keys)
  | .step => step s

/-- A run (R120): host operations one after the other. -/
def runOps : List HostOp → State → Result
  | [], s => .next s
  | op :: rest, s =>
    match applyOp op s with
    | .next t => runOps rest t
    | .fault f => .fault f
    | .refused r => .refused r

/-- The launch state of a program (R245): reset, then one `load` (R244). -/
def launch (bytes : List Byte) : State := State.reset.loadProgram bytes

end Sys2Proof.Machine
end

