-- ==== Sys2Proof/Safety.lean ====
section
/-!
DEFINITION. The terms claims use: the control states, the invariant of every step, what a safe run is, and which
parts of the state an operation may change.
-/

namespace Sys2Proof.Safety

open Sys2Proof.Machine

/-! ### Control states (spec/40_cycle_and_dispatch.md R121) -/

/-- RUNNING: neither halted nor awaiting. -/
abbrev Running (s : State) : Prop := s.halted = false ∧ s.awaiting = false

/-- AWAITING: a wait is pending and the machine is not halted. -/
abbrev Awaiting (s : State) : Prop := s.halted = false ∧ s.awaiting = true

/-- The variant the next RUNNING step decodes, when its fetch is in range (R122, R125). -/
def fetched (s : State) : Option Variant := (s.fetch16 s.pc.toNat).map decode

/-! ### The invariant, and safe runs -/

/-- What every step keeps (R25, R43, R34, R35): memory in canonical form; `pc` at most 0x10FE; every stack
entry at most 4096; a fault is recorded exactly when the machine is halted; a halted machine awaits nothing. -/
abbrev Inv (s : State) : Prop :=
  s.mem.wf = true ∧ s.pc.toNat ≤ 0x10FE ∧ (∀ k : Fin 16, s.stack[k].toNat ≤ 4096) ∧
    s.halted = s.fault.isSome ∧ ¬(s.halted = true ∧ s.awaiting = true)

/-- A state of a safe run: the machine has not halted on a fault. HALTED is the fault outcome and never a good
end of a run (R130, R218). -/
abbrev Safe (s : State) : Prop := s.halted = false

/-- `f 0, f 1, ..., f n` are the states of `n` steps one after the other. -/
def Trajectory (f : Nat → State) (n : Nat) : Prop := ∀ k, k < n → step (f k) = .next (f (k + 1))

/-! ### Frames -/

/-- Which parts of the state an operation may change. `wait` is `awaiting` and `target`; `halt` is `halted` and
`fault`; `rnd` is the model's count of draws. -/
structure Changes where
  mem : Bool := false
  v : Bool := false
  i : Bool := false
  pc : Bool := false
  sp : Bool := false
  stack : Bool := false
  screen : Bool := false
  keypad : Bool := false
  dt : Bool := false
  st : Bool := false
  wait : Bool := false
  halt : Bool := false
  rnd : Bool := false
  deriving DecidableEq, Repr

/-- Every part of the state that `may` does not name is the same in `t` as in `s`; memory is compared byte by
byte through the model's read of one byte, registers one by one. -/
def Frame (may : Changes) (s t : State) : Prop :=
  (may.mem = false → ∀ a, t.memRead a = s.memRead a) ∧
  (may.v = false → ∀ k, t.getV k = s.getV k) ∧
  (may.i = false → t.i = s.i) ∧
  (may.pc = false → t.pc = s.pc) ∧
  (may.sp = false → t.sp = s.sp) ∧
  (may.stack = false → t.stack = s.stack) ∧
  (may.screen = false → t.screen = s.screen) ∧
  (may.keypad = false → t.keypad = s.keypad) ∧
  (may.dt = false → t.dt = s.dt) ∧
  (may.st = false → t.st = s.st) ∧
  (may.wait = false → t.awaiting = s.awaiting ∧ t.target = s.target) ∧
  (may.halt = false → t.halted = s.halted ∧ t.fault = s.fault) ∧
  (may.rnd = false → t.rndCount = s.rndCount)

/-- What each instruction may change, from the access tables of the spec (R21, R23, R26, R27, R28, R30 to R34,
R77, R212). `halt` marks the instructions that can raise a fault. -/
def mayChange : Instr → Changes
  | .cls => { pc := true, screen := true }
  | .ret => { pc := true, sp := true, halt := true }
  | .jp _ => { pc := true }
  | .call _ => { pc := true, sp := true, stack := true, halt := true }
  | .seImm _ _ => { pc := true }
  | .sneImm _ _ => { pc := true }
  | .seReg _ _ => { pc := true }
  | .ldImm _ _ => { pc := true, v := true }
  | .addImm _ _ => { pc := true, v := true }
  | .ldReg _ _ => { pc := true, v := true }
  | .orReg _ _ => { pc := true, v := true }
  | .andReg _ _ => { pc := true, v := true }
  | .xorReg _ _ => { pc := true, v := true }
  | .addReg _ _ => { pc := true, v := true }
  | .sub _ _ => { pc := true, v := true }
  | .shr _ _ => { pc := true, v := true }
  | .subn _ _ => { pc := true, v := true }
  | .shl _ _ => { pc := true, v := true }
  | .sneReg _ _ => { pc := true }
  | .ldI _ => { pc := true, i := true }
  | .jpV0 _ => { pc := true }
  | .rnd _ _ => { pc := true, v := true, rnd := true }
  | .drw _ _ _ => { pc := true, v := true, screen := true, halt := true }
  | .skp _ => { pc := true, halt := true }
  | .sknp _ => { pc := true, halt := true }
  | .ldVxDt _ => { pc := true, v := true }
  | .ldVxK _ => { pc := true, wait := true }
  | .ldDtVx _ => { pc := true, dt := true }
  | .ldStVx _ => { pc := true, st := true }
  | .addI _ => { pc := true, v := true, i := true }
  | .ldF _ => { pc := true, i := true }
  | .ldB _ => { pc := true, mem := true, halt := true }
  | .store _ => { pc := true, mem := true, halt := true }
  | .load _ => { pc := true, v := true, halt := true }

/-- Whether an instruction may write register `k`: its named destination (R21), the block of the block load
(R185), or VF as a flag (R23). -/
def mayWriteV : Instr → Nibble → Bool
  | .ldImm x _, k | .addImm x _, k | .ldReg x _, k | .orReg x _, k | .andReg x _, k
  | .xorReg x _, k | .rnd x _, k | .ldVxDt x, k => k == x
  | .addReg x _, k | .sub x _, k | .shr x _, k | .subn x _, k | .shl x _, k => k == x || k == 0xF
  | .drw _ _ _, k | .addI _, k => k == 0xF
  | .load x, k => decide (k.toNat ≤ x.toNat)
  | .cls, _ | .ret, _ | .jp _, _ | .call _, _ | .seImm _ _, _ | .sneImm _ _, _ | .seReg _ _, _
  | .sneReg _ _, _ | .ldI _, _ | .jpV0 _, _ | .skp _, _ | .sknp _, _ | .ldVxK _, _ | .ldDtVx _, _
  | .ldStVx _, _ | .ldF _, _ | .ldB _, _ | .store _, _ => false

/-- The fault an instruction raises in a state, when it raises one: the table of R211 with the raisers of R212.
`encode i` is the instruction's own word (the `w` of R211). -/
def faultOf (i : Instr) (s : State) : Option Fault :=
  match i with
  | .ret => if s.sp.val = 0 then some (.stackUnderflow s.pc (encode i)) else none
  | .call _ => if s.sp.val = 16 then some (.stackOverflow s.pc (encode i)) else none
  | .drw _ _ n =>
    if 1 ≤ n.toNat ∧ s.i.toNat + n.toNat - 1 > 4095 then
      some (.memIndexOutOfRange s.pc (encode i) s.i n.toNat) else none
  | .ldB _ =>
    if s.i.toNat + 2 > 4095 then some (.memIndexOutOfRange s.pc (encode i) s.i 3) else none
  | .store x | .load x =>
    if s.i.toNat + x.toNat > 4095 then
      some (.memIndexOutOfRange s.pc (encode i) s.i (x.toNat + 1)) else none
  | .skp x | .sknp x =>
    if (s.getV x).toNat > 15 then some (.keyIndexOutOfRange s.pc (encode i) (s.getV x)) else none
  | .cls | .jp _ | .seImm _ _ | .sneImm _ _ | .seReg _ _ | .ldImm _ _ | .addImm _ _ | .ldReg _ _
  | .orReg _ _ | .andReg _ _ | .xorReg _ _ | .addReg _ _ | .sub _ _ | .shr _ _ | .subn _ _
  | .shl _ _ | .sneReg _ _ | .ldI _ | .jpV0 _ | .rnd _ _ | .ldVxDt _ | .ldVxK _ | .ldDtVx _
  | .ldStVx _ | .addI _ | .ldF _ => none

/-- Whether the handler of a variant, run in a state, returns the directive `Next` (R10): not the jumps, the call
and the return; a skip only when it is not taken (R144 to R147, R200, R201); everything else always (R25, R248). A
handler that raises a fault returns nothing, whatever this says. -/
def returnsNext (v : Variant) (s : State) : Bool :=
  match v with
  | .instr .ret | .instr (.jp _) | .instr (.call _) | .instr (.jpV0 _) => false
  | .instr (.seImm x kk) => s.getV x != kk
  | .instr (.sneImm x kk) => s.getV x == kk
  | .instr (.seReg x y) => s.getV x != s.getV y
  | .instr (.sneReg x y) => s.getV x == s.getV y
  | .instr (.skp x) => s.key (s.getV x) == some false
  | .instr (.sknp x) => s.key (s.getV x) == some true
  | .instr .cls | .instr (.ldImm _ _) | .instr (.addImm _ _) | .instr (.ldReg _ _)
  | .instr (.orReg _ _) | .instr (.andReg _ _) | .instr (.xorReg _ _) | .instr (.addReg _ _)
  | .instr (.sub _ _) | .instr (.shr _ _) | .instr (.subn _ _) | .instr (.shl _ _)
  | .instr (.ldI _) | .instr (.rnd _ _) | .instr (.drw _ _ _) | .instr (.ldVxDt _)
  | .instr (.ldVxK _) | .instr (.ldDtVx _) | .instr (.ldStVx _) | .instr (.addI _)
  | .instr (.ldF _) | .instr (.ldB _) | .instr (.store _) | .instr (.load _)
  | .unimplemented _ => true

end Sys2Proof.Safety
end

