-- ==== Sys2Proof/Certificates/Slice0/Obligations.lean ====
section
/-!
DEFINITION. The statements for the provers. Each docstring names the rule of spec/ it formalises; where a
clause rests on one of the spec's own decisions (D<n> of spec/92_eei_decisions.md) or on general knowledge (K<n>
of spec/93_implementation_defined.md) it says so and names the log entry.

A per-instruction statement says, in this order: the words that decode to the instruction (numbers: D2, log
entry 3), that `exec` answers a next state, what that state holds, and its frame.
-/

open Sys2Proof Sys2Proof.Machine Sys2Proof.Safety

/-! ### Encoding (spec/30_encoding.md) -/

/-- R94, R98: decoding the bytes of an encoded instruction gives the instruction and the bytes after it, for
every instruction with every operand. Opcode numbers: D2 (log entry 3). -/
def Obligations.DecodeOfEncodeIsTheInstruction : Prop :=
  ∀ (i : Instr) (rest : List Byte),
    decodeBytes (bytesOfWord (encode i) ++ rest) = some (.instr i, rest)

/-- R94, R99: encoding what any word decodes to gives the word back, so no bit of a word is dropped. That no
selector bit is dropped rests on the exact match of selectors, the spec's D3 (log entry 3): a lenient decoder
would not give a 5xy1 word back. That the `y` of SHR and SHL, which R104 ignores, comes back is the model's own
choice to keep it in the instruction (log entry 13). -/
def Obligations.EncodeOfDecodeIsTheWord : Prop := ∀ w : Word, encodeVariant (decode w) = w

/-- R98: a word is a row's instruction iff `w & mask = match`. Opcode numbers: D2 (log entry 3). -/
def Obligations.DecoderAgreesWithOpcodeMap : Prop :=
  ∀ (w : Word) (r : OpRow), r ∈ opcodeTable →
    (w &&& r.mask = r.bits ↔ ∃ i, decode w = .instr i ∧ i.rowNumber = r.number)

/-- R99: the unimplemented words are exactly the listed ones, which are exactly those that match no row of R98,
and the decoder only ever answers well-formed variants. Opcode numbers: D2 (log entry 3). -/
def Obligations.UnimplementedWordsAreTheListedOnes : Prop :=
  ∀ w : Word,
    (decode w).wellFormed = true ∧
    (isUnimplementedWord w = true ↔ decode w = .unimplemented w) ∧
    (isUnimplementedWord w = true ↔ ∀ r ∈ opcodeTable, w &&& r.mask ≠ r.bits)

/-- R98, R99: a sample word of every one of the sixteen families (values of `op`), and an unimplemented word of
each family that has one, decode to what they stand for (sanity). Opcode numbers: D2 (log entry 3). -/
def Obligations.SampleWordsDecode : Prop :=
  decode 0x00E0 = .instr .cls ∧ decode 0x1ABC = .instr (.jp 0xABC) ∧
  decode 0x2208 = .instr (.call 0x208) ∧ decode 0x3342 = .instr (.seImm 0x3 0x42) ∧
  decode 0x4105 = .instr (.sneImm 0x1 0x05) ∧ decode 0x5120 = .instr (.seReg 0x1 0x2) ∧
  decode 0x600A = .instr (.ldImm 0x0 0x0A) ∧ decode 0x70FF = .instr (.addImm 0x0 0xFF) ∧
  decode 0x8014 = .instr (.addReg 0x0 0x1) ∧ decode 0x8AB6 = .instr (.shr 0xA 0xB) ∧
  decode 0x9120 = .instr (.sneReg 0x1 0x2) ∧ decode 0xA300 = .instr (.ldI 0x300) ∧
  decode 0xB2FE = .instr (.jpV0 0x2FE) ∧ decode 0xC3F0 = .instr (.rnd 0x3 0xF0) ∧
  decode 0xD125 = .instr (.drw 0x1 0x2 0x5) ∧ decode 0xE39E = .instr (.skp 0x3) ∧
  decode 0xF50A = .instr (.ldVxK 0x5) ∧ decode 0xFF65 = .instr (.load 0xF) ∧
  decode 0x0123 = .unimplemented 0x0123 ∧ decode 0x5121 = .unimplemented 0x5121 ∧
  decode 0x8128 = .unimplemented 0x8128 ∧ decode 0x912F = .unimplemented 0x912F ∧
  decode 0xE09F = .unimplemented 0xE09F ∧ decode 0xFF75 = .unimplemented 0xFF75

/-! ### The step (spec/40_cycle_and_dispatch.md) -/

/-- R121, R127, R122, R125: in a RUNNING state whose two bytes at `pc` decode to a well-formed instruction, the
step is `exec` of it on the state after the timer countdown. -/
def Obligations.StepRunsTheDecodedInstruction : Prop :=
  ∀ (s : State) (i : Instr), Running s → s.pc.toNat ≤ 4094 → i.wellFormed = true →
    decodeBytes [s.mem.read s.pc.toNat, s.mem.read (s.pc.toNat + 1)] = some (.instr i, []) →
    step s = exec i { s with
      dt := if s.dt = 0 then 0 else s.dt - 1
      st := if s.st = 0 then 0 else s.st - 1 }

/-- The model's own operation (log entry 9): a table word placed by `withFetchWord` is the next one to run, from
every state. -/
def Obligations.PlacedWordIsRunNext : Prop :=
  ∀ (s : State) (w : Nat) (i : Instr), decodeTableWord 16 w = some i →
    step (s.withFetchWord 16 w) = exec i (s.withFetchWord 16 w).tickTimers

/-- R149, R210, R216: an unimplemented word is a no-op that advances `pc` by 2, reports its address and itself
(the pair is the spec's D17, log entry 6), and does not halt; the timers have counted. Conversely, a step
reports a word only if it is a RUNNING step that fetches an unimplemented one: a step that decodes an
instruction, an AWAITING or HALTED step, and a step whose fetch faults emit no diagnostic. Opcode numbers: D2
(log entry 3). -/
def Obligations.UnimplementedWordIsReportedNoOp : Prop :=
  (∀ (s : State) (w : Word), Running s → s.fetch16 s.pc.toNat = some w →
    isUnimplementedWord w = true →
    (∃ t, step s = .next t ∧ t.pc = s.pc + 2 ∧
      Frame { pc := true, dt := true, st := true } s t ∧
      t.dt.toNat = s.dt.toNat - 1 ∧ t.st.toNat = s.st.toNat - 1) ∧
    stepOutput s = ⟨some ⟨s.pc, w⟩, none⟩) ∧
  ∀ (s : State) (d : Diagnostic), (stepOutput s).diagnostic = some d →
    Running s ∧ d.pc = s.pc ∧ s.fetch16 s.pc.toNat = some d.word ∧
      isUnimplementedWord d.word = true

/-- R62, R61, R65: the fetched word is big-endian, and exists exactly up to address 4094. That an odd address is
fetched from like an even one is the spec's decision D20 (log entry 6). -/
def Obligations.FetchIsBigEndianUpTo4094 : Prop :=
  ∀ (s : State) (a : Nat),
    (a ≤ 4094 → ∃ w, s.fetch16 a = some w ∧
      w.toNat = (s.mem.read a).toNat * 256 + (s.mem.read (a + 1)).toNat) ∧
    (4095 ≤ a → s.fetch16 a = none)

/-- R122, R213, R214: a RUNNING step with `pc > 4094` fetches nothing, halts with PcOutOfRange and reports that
fault to the host; only the timers counted. The halt latch and the record are the spec's decision D15, the
countdown its D16 (log entry 6); that the fault is answered as a next state is the model's choice (log entry
10). -/
def Obligations.PcOutOfRangeHalts : Prop :=
  ∀ s : State, Running s → 4094 < s.pc.toNat →
    (∃ t, step s = .next t ∧ t.halted = true ∧ t.fault = some (.pcOutOfRange s.pc) ∧
      Frame { halt := true, dt := true, st := true } s t ∧
      t.dt.toNat = s.dt.toNat - 1 ∧ t.st.toNat = s.st.toNat - 1) ∧
    stepOutput s = ⟨none, some (.pcOutOfRange s.pc)⟩

/-- R124: a HALTED step changes nothing and reports the recorded fault again. The absorbing halt is the spec's
decision D15 (log entry 6); that the step answers next is the model's choice (log entry 10). -/
def Obligations.HaltedStepChangesNothing : Prop :=
  ∀ s : State, s.halted = true → step s = .next s ∧ stepOutput s = ⟨none, s.fault⟩

/-- R123: the AWAITING step puts the least down key into `V[target]` and ends the wait, or with no key down
changes nothing; no timer counts, nothing is fetched, no `pc` is out of range for it. -/
def Obligations.AwaitingStepCapturesTheLeastKey : Prop :=
  ∀ s : State, Awaiting s →
    (∀ k : Fin 16, s.keypad[k] = true → (∀ j : Fin 16, j < k → s.keypad[j] = false) →
      ∃ t, step s = .next t ∧ t.awaiting = false ∧ t.target = s.target ∧
        (∀ r, t.getV r = if r = s.target then BitVec.ofNat 8 k.val else s.getV r) ∧
        Frame { v := true, wait := true } s t) ∧
    ((∀ k : Fin 16, s.keypad[k] = false) → step s = .next s)

/-- R127, R204, R205: in every RUNNING step, faulting or not (D16, log entry 6), each timer is one less, floored
at 0, unless the step's instruction wrote it; in every other step it stays. -/
def Obligations.TimersCountOncePerRunningStep : Prop :=
  ∀ s t : State, step s = .next t →
    (Running s →
      (∀ x, fetched s = some (.instr (.ldDtVx x)) → t.dt = s.getV x) ∧
      ((∀ x, fetched s ≠ some (.instr (.ldDtVx x))) → t.dt.toNat = s.dt.toNat - 1) ∧
      (∀ x, fetched s = some (.instr (.ldStVx x)) → t.st = s.getV x) ∧
      ((∀ x, fetched s ≠ some (.instr (.ldStVx x))) → t.st.toNat = s.st.toNat - 1)) ∧
    (¬Running s → t.dt = s.dt ∧ t.st = s.st)

/-- R131, R213: every step of every state, and every instruction in every state, returns, and what it answers is
a next state. R131 gives that each returns; that a faulting and a HALTED step too answer a next state, and never
the outcomes `fault` and `refused`, is the model's choice (log entry 10). -/
def Obligations.EveryStepAnswersNext : Prop :=
  (∀ s : State, ∃ t, step s = .next t) ∧ ∀ (i : Instr) (s : State), ∃ t, exec i s = .next t

/-! ### Invariants (spec/10_state.md R25, R43) -/

/-- R25, R43, R28, R34, R35: every step keeps the invariant, from every state that meets it. The width of `pc`
and of a stack entry is the spec's D4 and D5, the bound 0x10FE rests on its D22, the halt latch and the fault
record are its D15 (log entry 6); memory's canonical form is the model's (log entry 7). -/
def Obligations.EveryStepKeepsTheInvariant : Prop :=
  ∀ s t : State, Inv s → step s = .next t → Inv t

/-- R42, R25, R43: the state after reset meets the invariant. That the stack is zero at reset is the spec's D6
(log entry 5), that the machine is not halted and records no fault its D15 (log entry 6); that reset memory is
the empty list is the model's canonical form (log entry 7). -/
def Obligations.ResetMeetsTheInvariant : Prop := Inv State.reset

/-- R41, R226: every sequence of host operations (reset, load, set_keypad, step) runs to its end and keeps the
invariant. That it runs to its end rests on the model's choices that faulting and HALTED steps answer a next
state (log entry 10) and that `load` has its meaning in every state, after the first step too, which R244 and
D24 let a model refuse (log entry 12). The invariant's halt latch is the spec's D15 (log entry 6), its form of
memory the model's (log entry 7), the operations are those of D18 (log entries 6 and 11). -/
def Obligations.HostRunsKeepTheInvariant : Prop :=
  ∀ (ops : List HostOp) (s : State), Inv s → ∃ t, runOps ops s = .next t ∧ Inv t

/-- R42, R240, R242, R245, R218: the state after reset, member by member; the host's reset, from any state,
gives that state, and no other host operation leaves HALTED; the launch state of an image is the reset state
with the image from 0x200 upwards. The font bytes are general knowledge (K3, log entry 2); the zeros of `I`,
`sp`, `stack`, `screen`, `keypad`, `DT`, `ST` and `target` are the spec's D6 (log entry 5); the halt latch is
its D15 (log entry 6); that in HALTED a step answers a next state (log entry 10) and so does a `load`, which
R244 and D24 let a model refuse (log entry 12), are the model's choices; that the model's count of random draws
goes on over a reset is its own choice (log entry 1). -/
def Obligations.ResetState : Prop :=
  ((∀ a, State.reset.memRead a =
      if a < 80 then some (font.getD a 0) else if a ≤ 4095 then some 0 else none) ∧
    (∀ k, State.reset.getV k = 0) ∧ State.reset.pc = 0x200 ∧ State.reset.i = 0 ∧
    State.reset.sp = 0 ∧ (∀ k : Fin 16, State.reset.stack[k] = 0) ∧
    (∀ r c, State.reset.screen.pixel r c = false) ∧
    (∀ k : Fin 16, State.reset.keypad[k] = false) ∧ State.reset.dt = 0 ∧ State.reset.st = 0 ∧
    State.reset.awaiting = false ∧ State.reset.target = 0 ∧ State.reset.halted = false ∧
    State.reset.fault = none) ∧
  (∀ s : State, ∃ t, applyOp .reset s = .next t ∧ Frame { rnd := true } State.reset t ∧
    t.rndCount = s.rndCount) ∧
  (∀ (s : State) (op : HostOp), s.halted = true → op ≠ .reset →
    ∃ t, applyOp op s = .next t ∧ t.halted = true ∧ t.fault = s.fault) ∧
  ∀ (bytes : List Byte), Frame { mem := true } State.reset (launch bytes) ∧
    ∀ a, (launch bytes).memRead a =
      if a < 80 then some (font.getD a 0)
      else if 4095 < a then none
      else if a < 0x200 then some 0
      else some (bytes.getD (a - 0x200) 0)

/-! ### Whole-machine rules -/

/-- R211, R212: each instruction raises exactly the fault the table gives it in that state, or none. The latch,
codes and records are D15, the memory and key checks D9 and D11 (log entry 6); that a fault is answered as a
next state is the model's choice (log entry 10). -/
def Obligations.FaultsAreThoseOfTheTable : Prop :=
  ∀ (i : Instr) (s : State),
    (∀ f, faultOf i s = some f →
      exec i s = .next { s with halted := true, fault := some f }) ∧
    (faultOf i s = none →
      ∃ t, exec i s = .next t ∧ t.halted = s.halted ∧ t.fault = s.fault)

/-- R213, R214, R215, R218: a step that halts the machine changes nothing but the timers' countdown and the halt
latch, it halts for the fetch check or for the one check of the decoded instruction, and it reports exactly that
fault to the host, and no diagnostic. The latch and the record are D15, the countdown D16 (log entry 6); that
the fault is answered as a next state is the model's choice (log entry 10). -/
def Obligations.FaultingStepIsPrecise : Prop :=
  ∀ s t : State, step s = .next t → s.halted = false → t.halted = true →
    ∃ f, t = { s.tickTimers with halted := true, fault := some f } ∧
      stepOutput s = ⟨none, some f⟩ ∧
      ((4094 < s.pc.toNat ∧ f = .pcOutOfRange s.pc) ∨
       (s.pc.toNat ≤ 4094 ∧ ∃ i, fetched s = some (.instr i) ∧ faultOf i s = some f))

/-- R21, R23, R26, R27, R28, R30 to R35, R77: an instruction changes only the parts of the state that the spec's
access tables give it; in particular none writes the keypad, only CLS and DRW the screen, only CALL and RET the
stack pointer, only LD B and LD [I] memory, and of memory LD B no byte but the three at `I`, LD [I] no byte but
the `x + 1` at `I`. -/
def Obligations.InstructionsChangeOnlyTheirParts : Prop :=
  (∀ (i : Instr) (s t : State), exec i s = .next t → Frame (mayChange i) s t) ∧
  ∀ (x : Nibble) (s t : State) (a : Nat),
    (exec (.ldB x) s = .next t → (a < s.i.toNat ∨ s.i.toNat + 3 ≤ a) →
      t.memRead a = s.memRead a) ∧
    (exec (.store x) s = .next t → (a < s.i.toNat ∨ s.i.toNat + (x.toNat + 1) ≤ a) →
      t.memRead a = s.memRead a)

/-- R21, R23: a register is written only by an instruction that names it as its destination, has it in its
block, or, for VF, defines a flag. -/
def Obligations.RegistersWrittenOnlyByTheirWriters : Prop :=
  ∀ (i : Instr) (s t : State) (k : Nibble), exec i s = .next t → mayWriteV i k = false →
    t.getV k = s.getV k

/-- R63, R64: a one-byte store inside memory is read back at its address and changes no other byte and nothing
else; outside 0..4095 there is neither a read nor a write. Memory stays in canonical form (log entry 7). -/
def Obligations.StoredByteIsReadBack : Prop :=
  ∀ (s : State) (a : Nat) (b : Byte),
    (a ≤ 4095 → ∃ t, s.storeBytes a [b] = some t ∧
      (∀ a', t.memRead a' = if a' = a then some b else s.memRead a') ∧
      Frame { mem := true } s t ∧ (s.mem.wf = true → t.mem.wf = true)) ∧
    (4095 < a → s.storeBytes a [b] = none ∧ s.memRead a = none)

/-! ### Control transfer (spec/41_control_transfer.md) -/

/-- R143: RET pops and jumps to the popped address; the slot keeps its value. With an empty stack it raises
StackUnderflow and changes nothing else (the halt and its record: D15, log entry 6; answered as a next state:
log entry 10). Opcode numbers: D2 (log entry 3). -/
def Obligations.RetPopsAndJumps : Prop :=
  decode 0x00EE = .instr .ret ∧
  ∀ s : State,
    (∀ h : s.sp.val ≠ 0, ∃ t, exec .ret s = .next t ∧
      t.pc = s.stack[s.sp.val - 1]'(by omega) ∧ t.sp.val = s.sp.val - 1 ∧
      Frame { pc := true, sp := true } s t) ∧
    (s.sp.val = 0 → exec .ret s =
      .next { s with halted := true, fault := some (.stackUnderflow s.pc 0x00EE) })

/-- R142: JP sets `pc` to `nnn` and nothing else. Opcode numbers: D2 (log entry 3). -/
def Obligations.JpSetsPc : Prop :=
  ∀ nnn : Imm12, decode (wordNNN 0x1 nnn) = .instr (.jp nnn) ∧
    ∀ s : State, ∃ t, exec (.jp nnn) s = .next t ∧ t.pc.toNat = nnn.toNat ∧
      Frame { pc := true } s t

/-- R141: CALL pushes `pc + 2` and jumps to `nnn`; the other stack entries stay. With a full stack it raises
StackOverflow and changes nothing else (the halt and its record: D15, log entry 6; answered as a next state: log
entry 10). Opcode numbers: D2 (log entry 3). -/
def Obligations.CallPushesAndJumps : Prop :=
  ∀ nnn : Imm12, decode (wordNNN 0x2 nnn) = .instr (.call nnn) ∧
    ∀ s : State,
      (s.sp.val < 16 → ∃ t, exec (.call nnn) s = .next t ∧ t.pc.toNat = nnn.toNat ∧
        t.sp.val = s.sp.val + 1 ∧
        (∀ k : Fin 16, t.stack[k] = if k.val = s.sp.val then s.pc + 2 else s.stack[k]) ∧
        Frame { pc := true, sp := true, stack := true } s t) ∧
      (s.sp.val = 16 → exec (.call nnn) s = .next { s with
        halted := true, fault := some (.stackOverflow s.pc (wordNNN 0x2 nnn)) })

/-- R144, R145: the skips on a register and an immediate. Opcode numbers: D2 (log entry 3). -/
def Obligations.SkipOnImmediate : Prop :=
  ∀ (x : Nibble) (kk : Byte),
    decode (wordXKK 0x3 x kk) = .instr (.seImm x kk) ∧
    decode (wordXKK 0x4 x kk) = .instr (.sneImm x kk) ∧
    ∀ s : State,
      (∃ t, exec (.seImm x kk) s = .next t ∧ Frame { pc := true } s t ∧
        t.pc = s.pc + (if (s.getV x).toNat = kk.toNat then 4 else 2)) ∧
      (∃ t, exec (.sneImm x kk) s = .next t ∧ Frame { pc := true } s t ∧
        t.pc = s.pc + (if (s.getV x).toNat = kk.toNat then 2 else 4))

/-- R146, R147: the skips on two registers. Opcode numbers: D2 (log entry 3). -/
def Obligations.SkipOnRegisters : Prop :=
  ∀ x y : Nibble,
    decode (wordXYN 0x5 x y 0) = .instr (.seReg x y) ∧
    decode (wordXYN 0x9 x y 0) = .instr (.sneReg x y) ∧
    (∀ n : Nibble, n ≠ 0 → decode (wordXYN 0x5 x y n) = .unimplemented (wordXYN 0x5 x y n) ∧
      decode (wordXYN 0x9 x y n) = .unimplemented (wordXYN 0x9 x y n)) ∧
    ∀ s : State,
      (∃ t, exec (.seReg x y) s = .next t ∧ Frame { pc := true } s t ∧
        t.pc = s.pc + (if (s.getV x).toNat = (s.getV y).toNat then 4 else 2)) ∧
      (∃ t, exec (.sneReg x y) s = .next t ∧ Frame { pc := true } s t ∧
        t.pc = s.pc + (if (s.getV x).toNat = (s.getV y).toNat then 2 else 4))

/-- R150: JP V0 jumps to the exact sum of `nnn` and V0. That it is not reduced to 12 bits is the spec's D22 (log
entry 6). Opcode numbers: D2 (log entry 3). -/
def Obligations.JpV0SetsPcToTheSum : Prop :=
  ∀ nnn : Imm12, decode (wordNNN 0xB nnn) = .instr (.jpV0 nnn) ∧
    ∀ s : State, ∃ t, exec (.jpV0 nnn) s = .next t ∧
      t.pc.toNat = nnn.toNat + (s.getV 0).toNat ∧ Frame { pc := true } s t

/-- R141, R143, R148: a CALL with room on the stack, followed by a RET from whatever state differs from it only
in `pc` and the registers, comes back to the word after the CALL with `sp` as before. -/
def Obligations.RetUndoesCall : Prop :=
  ∀ (s t : State) (nnn : Imm12) (v' : Regs) (pc' : Word), s.sp.val < 16 →
    exec (.call nnn) s = .next t →
    ∃ u, exec .ret { t with v := v', pc := pc' } = .next u ∧ u.pc = s.pc + 2 ∧ u.sp = s.sp

/-! ### ALU (spec/42_alu.md) -/

/-- R160: LD Vx,kk. Opcode numbers: D2 (log entry 3). -/
def Obligations.LoadImmediate : Prop :=
  ∀ (x : Nibble) (kk : Byte), decode (wordXKK 0x6 x kk) = .instr (.ldImm x kk) ∧
    ∀ s : State, ∃ t, exec (.ldImm x kk) s = .next t ∧ t.pc = s.pc + 2 ∧
      (∀ k, t.getV k = if k = x then kk else s.getV k) ∧ Frame { pc := true, v := true } s t

/-- R161: ADD Vx,kk wraps modulo 256 and sets no flag. Opcode numbers: D2 (log entry 3). -/
def Obligations.AddImmediateSetsNoFlag : Prop :=
  ∀ (x : Nibble) (kk : Byte), decode (wordXKK 0x7 x kk) = .instr (.addImm x kk) ∧
    ∀ s : State, ∃ t, exec (.addImm x kk) s = .next t ∧ t.pc = s.pc + 2 ∧
      (t.getV x).toNat = ((s.getV x).toNat + kk.toNat) % 256 ∧
      (∀ k, k ≠ x → t.getV k = s.getV k) ∧ Frame { pc := true, v := true } s t

/-- R163: LD Vx,Vy. Opcode numbers: D2 (log entry 3). -/
def Obligations.CopyRegister : Prop :=
  ∀ x y : Nibble, decode (wordXYN 0x8 x y 0x0) = .instr (.ldReg x y) ∧
    ∀ s : State, ∃ t, exec (.ldReg x y) s = .next t ∧ t.pc = s.pc + 2 ∧
      (∀ k, t.getV k = if k = x then s.getV y else s.getV k) ∧ Frame { pc := true, v := true } s t

/-- R164, R165, R166: OR, AND and XOR bit by bit; VF is untouched unless it is the destination. Opcode numbers:
D2 (log entry 3). -/
def Obligations.BitwiseInstructions : Prop :=
  ∀ x y : Nibble,
    decode (wordXYN 0x8 x y 0x1) = .instr (.orReg x y) ∧
    decode (wordXYN 0x8 x y 0x2) = .instr (.andReg x y) ∧
    decode (wordXYN 0x8 x y 0x3) = .instr (.xorReg x y) ∧
    ∀ s : State,
      (∃ t, exec (.orReg x y) s = .next t ∧ t.pc = s.pc + 2 ∧
        (∀ b, b < 8 → (t.getV x).getLsbD b = ((s.getV x).getLsbD b || (s.getV y).getLsbD b)) ∧
        (∀ k, k ≠ x → t.getV k = s.getV k) ∧ Frame { pc := true, v := true } s t) ∧
      (∃ t, exec (.andReg x y) s = .next t ∧ t.pc = s.pc + 2 ∧
        (∀ b, b < 8 → (t.getV x).getLsbD b = ((s.getV x).getLsbD b && (s.getV y).getLsbD b)) ∧
        (∀ k, k ≠ x → t.getV k = s.getV k) ∧ Frame { pc := true, v := true } s t) ∧
      (∃ t, exec (.xorReg x y) s = .next t ∧ t.pc = s.pc + 2 ∧
        (∀ b, b < 8 → (t.getV x).getLsbD b = ((s.getV x).getLsbD b ^^ (s.getV y).getLsbD b)) ∧
        (∀ k, k ≠ x → t.getV k = s.getV k) ∧ Frame { pc := true, v := true } s t)

/-- R167: ADD Vx,Vy wraps and VF is the carry out. With `x = 15` VF ends as the flag: the spec's D7 (log entry
6). Opcode numbers: D2 (log entry 3). -/
def Obligations.AddSetsCarry : Prop :=
  ∀ x y : Nibble, decode (wordXYN 0x8 x y 0x4) = .instr (.addReg x y) ∧
    ∀ s : State, ∃ t, exec (.addReg x y) s = .next t ∧ t.pc = s.pc + 2 ∧
      (t.getV vf).toNat = (if (s.getV x).toNat + (s.getV y).toNat > 255 then 1 else 0) ∧
      (x ≠ vf → (t.getV x).toNat = ((s.getV x).toNat + (s.getV y).toNat) % 256) ∧
      (∀ k, k ≠ x → k ≠ vf → t.getV k = s.getV k) ∧ Frame { pc := true, v := true } s t

/-- R168, R170, R173: SUB and SUBN wrap, and VF is 1 iff the minuend is STRICTLY greater. With `x = 15` VF ends
as the flag: the spec's D7 (log entry 6). Opcode numbers: D2 (log entry 3). -/
def Obligations.SubtractSetsStrictFlag : Prop :=
  ∀ x y : Nibble,
    decode (wordXYN 0x8 x y 0x5) = .instr (.sub x y) ∧
    decode (wordXYN 0x8 x y 0x7) = .instr (.subn x y) ∧
    ∀ s : State,
      (∃ t, exec (.sub x y) s = .next t ∧ t.pc = s.pc + 2 ∧
        (t.getV vf).toNat = (if (s.getV x).toNat > (s.getV y).toNat then 1 else 0) ∧
        (x ≠ vf → ((t.getV x).toNat : Int) =
          ((s.getV x).toNat : Int) - (s.getV y).toNat +
            (if (s.getV x).toNat < (s.getV y).toNat then 256 else 0)) ∧
        (∀ k, k ≠ x → k ≠ vf → t.getV k = s.getV k) ∧ Frame { pc := true, v := true } s t) ∧
      (∃ t, exec (.subn x y) s = .next t ∧ t.pc = s.pc + 2 ∧
        (t.getV vf).toNat = (if (s.getV y).toNat > (s.getV x).toNat then 1 else 0) ∧
        (x ≠ vf → ((t.getV x).toNat : Int) =
          ((s.getV y).toNat : Int) - (s.getV x).toNat +
            (if (s.getV y).toNat < (s.getV x).toNat then 256 else 0)) ∧
        (∀ k, k ≠ x → k ≠ vf → t.getV k = s.getV k) ∧ Frame { pc := true, v := true } s t)

/-- R252: after SUB or SUBN with equal operands VF is 0. -/
def Obligations.SubtractFlagIsZeroAtEquality : Prop :=
  ∀ (x y : Nibble) (s : State), s.getV x = s.getV y →
    (∃ t, exec (.sub x y) s = .next t ∧ t.getV vf = 0) ∧
    (∃ t, exec (.subn x y) s = .next t ∧ t.getV vf = 0)

/-- R169, R171, R104: the shifts by one; VF is the bit shifted out, and `y` is ignored (that the instruction
keeps it: log entry 13). With `x = 15` VF ends as the flag: the spec's D7 (log entry 6). Opcode numbers: D2 (log
entry 3). -/
def Obligations.ShiftsByOne : Prop :=
  ∀ x y : Nibble,
    decode (wordXYN 0x8 x y 0x6) = .instr (.shr x y) ∧
    decode (wordXYN 0x8 x y 0xE) = .instr (.shl x y) ∧
    ∀ s : State,
      (∃ t, exec (.shr x y) s = .next t ∧ t.pc = s.pc + 2 ∧
        (t.getV vf).toNat = (s.getV x).toNat % 2 ∧
        (x ≠ vf → (t.getV x).toNat = (s.getV x).toNat / 2) ∧
        (∀ k, k ≠ x → k ≠ vf → t.getV k = s.getV k) ∧ Frame { pc := true, v := true } s t) ∧
      (∃ t, exec (.shl x y) s = .next t ∧ t.pc = s.pc + 2 ∧
        (t.getV vf).toNat = (s.getV x).toNat / 128 ∧
        (x ≠ vf → (t.getV x).toNat = 2 * (s.getV x).toNat % 256) ∧
        (∀ k, k ≠ x → k ≠ vf → t.getV k = s.getV k) ∧ Frame { pc := true, v := true } s t)

/-- R172: RND puts the random input, masked, into `V[x]`, whatever the input is; bits outside `kk` are 0. The
input is a free value (log entry 1). Opcode numbers: D2 (log entry 3). -/
def Obligations.RandomByteIsMasked : Prop :=
  ∀ (x : Nibble) (kk : Byte), decode (wordXKK 0xC x kk) = .instr (.rnd x kk) ∧
    ∀ s : State, ∃ t, exec (.rnd x kk) s = .next t ∧ t.pc = s.pc + 2 ∧
      (∀ k, t.getV k = if k = x then s.rndByte &&& kk else s.getV k) ∧
      t.getV x &&& (0xFF ^^^ kk) = 0 ∧ (kk = 0xFF → t.getV x = s.rndByte) ∧
      Frame { pc := true, v := true, rnd := true } s t

/-! ### Index register and memory (spec/43_index_memory.md) -/

/-- R180: LD I,nnn; bits 15..12 of I become 0. Opcode numbers: D2 (log entry 3). -/
def Obligations.LoadIndex : Prop :=
  ∀ nnn : Imm12, decode (wordNNN 0xA nnn) = .instr (.ldI nnn) ∧
    ∀ s : State, ∃ t, exec (.ldI nnn) s = .next t ∧ t.pc = s.pc + 2 ∧
      t.i.toNat = nnn.toNat ∧ Frame { pc := true, i := true } s t

/-- R181: ADD I,Vx wraps at 16 bits and VF is the carry out of bit 15. That VF is 0 otherwise is the spec's D8,
that with `x = 15` the old VF is the addend its D7 (log entry 6). Opcode numbers: D2 (log entry 3). -/
def Obligations.AddIndexSetsCarry : Prop :=
  ∀ x : Nibble, decode (wordXKK 0xF x 0x1E) = .instr (.addI x) ∧
    ∀ s : State, ∃ t, exec (.addI x) s = .next t ∧ t.pc = s.pc + 2 ∧
      t.i.toNat = (s.i.toNat + (s.getV x).toNat) % 65536 ∧
      (t.getV vf).toNat = (if s.i.toNat + (s.getV x).toNat > 65535 then 1 else 0) ∧
      (∀ k, k ≠ vf → t.getV k = s.getV k) ∧ Frame { pc := true, i := true, v := true } s t

/-- R182: LD F,Vx multiplies the whole byte by 5. Opcode numbers: D2 (log entry 3). -/
def Obligations.FontAddressOfRegister : Prop :=
  ∀ x : Nibble, decode (wordXKK 0xF x 0x29) = .instr (.ldF x) ∧
    ∀ s : State, ∃ t, exec (.ldF x) s = .next t ∧ t.pc = s.pc + 2 ∧
      t.i.toNat = (s.getV x).toNat * 5 ∧ Frame { pc := true, i := true } s t

/-- R183: LD B stores the hundreds, tens and units digits at I, I+1, I+2 and no other byte; when one of them is
outside memory it raises MemIndexOutOfRange and changes nothing else (D9 and D15, log entry 6; answered as a
next state: log entry 10). Opcode numbers: D2 (log entry 3). -/
def Obligations.BcdStoresThreeDigits : Prop :=
  ∀ x : Nibble, decode (wordXKK 0xF x 0x33) = .instr (.ldB x) ∧
    ∀ s : State,
      (s.i.toNat ≤ 4093 → ∃ t h d u, exec (.ldB x) s = .next t ∧ t.pc = s.pc + 2 ∧
        t.memRead s.i.toNat = some h ∧ t.memRead (s.i.toNat + 1) = some d ∧
        t.memRead (s.i.toNat + 2) = some u ∧
        h.toNat * 100 + d.toNat * 10 + u.toNat = (s.getV x).toNat ∧
        h.toNat ≤ 2 ∧ d.toNat ≤ 9 ∧ u.toNat ≤ 9 ∧
        (∀ a, (a < s.i.toNat ∨ s.i.toNat + 3 ≤ a) → t.memRead a = s.memRead a) ∧
        Frame { pc := true, mem := true } s t) ∧
      (4093 < s.i.toNat → exec (.ldB x) s = .next { s with
        halted := true
        fault := some (.memIndexOutOfRange s.pc (wordXKK 0xF x 0x33) s.i 3) })

/-- R184: LD [I],Vx stores V0..Vx inclusive at I..I+x and no other byte; when one of them is outside memory it
raises MemIndexOutOfRange and changes nothing else (D9 and D15, log entry 6; answered as a next state: log entry
10). Opcode numbers: D2 (log entry 3). -/
def Obligations.BlockStoreWritesV0ToVx : Prop :=
  ∀ x : Nibble, decode (wordXKK 0xF x 0x55) = .instr (.store x) ∧
    ∀ s : State,
      (s.i.toNat + x.toNat ≤ 4095 → ∃ t, exec (.store x) s = .next t ∧ t.pc = s.pc + 2 ∧
        (∀ k : Nibble, k.toNat ≤ x.toNat → t.memRead (s.i.toNat + k.toNat) = some (s.getV k)) ∧
        (∀ a, (a < s.i.toNat ∨ s.i.toNat + x.toNat < a) → t.memRead a = s.memRead a) ∧
        Frame { pc := true, mem := true } s t) ∧
      (4095 < s.i.toNat + x.toNat → exec (.store x) s = .next { s with
        halted := true
        fault := some (.memIndexOutOfRange s.pc (wordXKK 0xF x 0x55) s.i (x.toNat + 1)) })

/-- R185: LD Vx,[I] loads V0..Vx inclusive from I..I+x, other registers and I unchanged; when one of the bytes
is outside memory it raises MemIndexOutOfRange and changes nothing else (D9 and D15, log entry 6; answered as a
next state: log entry 10). Opcode numbers: D2 (log entry 3). -/
def Obligations.BlockLoadReadsV0ToVx : Prop :=
  ∀ x : Nibble, decode (wordXKK 0xF x 0x65) = .instr (.load x) ∧
    ∀ s : State,
      (s.i.toNat + x.toNat ≤ 4095 → ∃ t, exec (.load x) s = .next t ∧ t.pc = s.pc + 2 ∧
        (∀ k : Nibble, k.toNat ≤ x.toNat → some (t.getV k) = s.memRead (s.i.toNat + k.toNat)) ∧
        (∀ k : Nibble, x.toNat < k.toNat → t.getV k = s.getV k) ∧
        Frame { pc := true, v := true } s t) ∧
      (4095 < s.i.toNat + x.toNat → exec (.load x) s = .next { s with
        halted := true
        fault := some (.memIndexOutOfRange s.pc (wordXKK 0xF x 0x65) s.i (x.toNat + 1)) })

/-- R184, R185, R71: what a block store wrote, a block load of the same length at the same I reads back into
V0..Vx, whatever the registers held in between. -/
def Obligations.BlockLoadReadsBackBlockStore : Prop :=
  ∀ (x : Nibble) (s t : State) (v' : Regs), s.i.toNat + x.toNat ≤ 4095 →
    exec (.store x) s = .next t →
    ∃ u, exec (.load x) { t with v := v' } = .next u ∧
      ∀ k : Nibble, k.toNat ≤ x.toNat → u.getV k = s.getV k

/-- R75: a store is seen by the next fetch: the word fetched at two stored bytes is the stored registers, high
byte first. -/
def Obligations.FetchSeesTheStore : Prop :=
  ∀ (x k k' : Nibble) (s t : State), s.i.toNat + x.toNat ≤ 4095 → k'.toNat = k.toNat + 1 →
    k'.toNat ≤ x.toNat → exec (.store x) s = .next t →
    t.fetch16 (s.i.toNat + k.toNat) = some (wordOfBytes (s.getV k) (s.getV k'))

/-! ### Display (spec/44_display.md) -/

/-- R190, R229, R30: CLS sets every pixel to 0 and touches nothing else. What the host reads of the screen is
the 2048 pixels in row-major order, pixel (r, c) at position `r * 64 + c`; after CLS all of them are 0. Opcode
numbers: D2 (log entry 3). -/
def Obligations.ClsClearsTheScreen : Prop :=
  decode 0x00E0 = .instr .cls ∧
  (∀ s : State, ∃ t, exec .cls s = .next t ∧ t.pc = s.pc + 2 ∧
    (∀ r c, t.screen.pixel r c = false) ∧ framebuffer t = List.replicate 2048 false ∧
    Frame { pc := true, screen := true } s t) ∧
  ∀ s : State, (framebuffer s).length = 2048 ∧
    ∀ r c, r < 32 → c < 64 → (framebuffer s)[r * 64 + c]? = some (s.screen.pixel r c)

/-- R191: DRW inverts exactly the pixels under a 1 bit of the sprite, wrapping both coordinates, and VF is 1 iff
one of them was set. With `n = 0` nothing is drawn and I is not checked; when a sprite byte is outside memory it
raises MemIndexOutOfRange and changes nothing else. The bit order is D12 (log entry 4), the latched coordinates
D7, the check and its fault D9 and D15 (log entry 6; answered as a next state: log entry 10). Opcode numbers: D2
(log entry 3). -/
def Obligations.DrawXorsTheSprite : Prop :=
  ∀ x y n : Nibble, decode (wordXYN 0xD x y n) = .instr (.drw x y n) ∧
    ∀ s : State,
      (n.toNat = 0 ∨ s.i.toNat + n.toNat ≤ 4096 →
        ∃ t, exec (.drw x y n) s = .next t ∧ t.pc = s.pc + 2 ∧
          (∀ r c, r < 32 → c < 64 →
            (t.screen.pixel r c ≠ s.screen.pixel r c ↔ ∃ row col, row < n.toNat ∧ col < 8 ∧
              r = ((s.getV y).toNat + row) % 32 ∧ c = ((s.getV x).toNat + col) % 64 ∧
              (s.mem.read (s.i.toNat + row)).getLsbD (7 - col) = true)) ∧
          (t.getV vf = 0 ∨ t.getV vf = 1) ∧
          (t.getV vf = 1 ↔ ∃ r c, r < 32 ∧ c < 64 ∧ s.screen.pixel r c = true ∧
            t.screen.pixel r c = false) ∧
          (∀ k, k ≠ vf → t.getV k = s.getV k) ∧
          Frame { pc := true, screen := true, v := true } s t) ∧
      (n.toNat ≠ 0 → 4096 < s.i.toNat + n.toNat → exec (.drw x y n) s = .next { s with
        halted := true
        fault := some (.memIndexOutOfRange s.pc (wordXYN 0xD x y n) s.i n.toNat) })

/-- R191: drawing the same sprite at the same place twice restores the screen, when the coordinates are not in
VF. -/
def Obligations.DrawTwiceRestoresTheScreen : Prop :=
  ∀ (x y n : Nibble) (s t : State), x ≠ vf → y ≠ vf →
    (n.toNat = 0 ∨ s.i.toNat + n.toNat ≤ 4096) → exec (.drw x y n) s = .next t →
    ∃ u, exec (.drw x y n) t = .next u ∧ u.screen = s.screen

/-! ### Keypad and timers (spec/45_keypad_timers.md) -/

/-- R200, R201: the key skips read the level of the key numbered by the VALUE of `V[x]`; a value above 15 raises
KeyIndexOutOfRange and changes nothing else (D11 and D15, log entry 6; answered as a next state: log entry 10).
Opcode numbers: D2 (log entry 3). -/
def Obligations.KeySkipsReadTheLatch : Prop :=
  ∀ x : Nibble,
    decode (wordXKK 0xE x 0x9E) = .instr (.skp x) ∧
    decode (wordXKK 0xE x 0xA1) = .instr (.sknp x) ∧
    ∀ s : State,
      (∀ h : (s.getV x).toNat < 16,
        (∃ t, exec (.skp x) s = .next t ∧ Frame { pc := true } s t ∧
          t.pc = s.pc + (if s.keypad[(s.getV x).toNat] = true then 4 else 2)) ∧
        (∃ t, exec (.sknp x) s = .next t ∧ Frame { pc := true } s t ∧
          t.pc = s.pc + (if s.keypad[(s.getV x).toNat] = true then 2 else 4))) ∧
      (15 < (s.getV x).toNat →
        exec (.skp x) s = .next { s with
          halted := true
          fault := some (.keyIndexOutOfRange s.pc (wordXKK 0xE x 0x9E) (s.getV x)) } ∧
        exec (.sknp x) s = .next { s with
          halted := true
          fault := some (.keyIndexOutOfRange s.pc (wordXKK 0xE x 0xA1) (s.getV x)) })

/-- R202: LD Vx,DT reads the delay timer; in a step, the value after that step's countdown. Opcode numbers: D2
(log entry 3). -/
def Obligations.ReadDelayTimer : Prop :=
  ∀ x : Nibble, decode (wordXKK 0xF x 0x07) = .instr (.ldVxDt x) ∧
    (∀ s : State, ∃ t, exec (.ldVxDt x) s = .next t ∧ t.pc = s.pc + 2 ∧
      (∀ k, t.getV k = if k = x then s.dt else s.getV k) ∧ Frame { pc := true, v := true } s t) ∧
    ∀ s : State, Running s → fetched s = some (.instr (.ldVxDt x)) →
      ∃ t, step s = .next t ∧ (t.getV x).toNat = s.dt.toNat - 1 ∧ t.dt = t.getV x

/-- R129: the step of LD Vx,K at address `a` leaves `pc = a + 2`, AWAITING(x), and every register as it was,
whatever keys are down. Said of `exec`, and of the step, which but for the two timers changes nothing else. -/
def Obligations.KeyWaitEntersAwaiting : Prop :=
  ∀ (x : Nibble) (s : State),
    (∃ t, exec (.ldVxK x) s = .next t ∧ t.pc = s.pc + 2 ∧ t.awaiting = true ∧ t.target = x ∧
      Frame { pc := true, wait := true } s t) ∧
    (Running s → fetched s = some (.instr (.ldVxK x)) →
      ∃ t, step s = .next t ∧ t.pc = s.pc + 2 ∧ Awaiting t ∧ t.target = x ∧
        Frame { pc := true, wait := true, dt := true, st := true } s t)

/-- R203, R123, R129: in a RUNNING state at LD Vx,K with a key down, the next two steps advance `pc` by 2 once
and leave the least down key in `V[x]`, with the machine RUNNING again. No host operation falls between the two
steps, so the latch is the same in both: the model's choice that the latch changes only by `set_keypad` (log
entry 11); R244's host calls `set_keypad` before every step, and then this holds where that call leaves the
latch as it is. -/
def Obligations.KeyWaitTakesTwoSteps : Prop :=
  ∀ (x : Nibble) (s : State) (k : Fin 16), Running s → fetched s = some (.instr (.ldVxK x)) →
    s.keypad[k] = true → (∀ j : Fin 16, j < k → s.keypad[j] = false) →
    ∃ t u, step s = .next t ∧ step t = .next u ∧ Awaiting t ∧ Running u ∧ u.pc = s.pc + 2 ∧
      ∀ r, u.getV r = if r = x then BitVec.ofNat 8 k.val else s.getV r

/-- R204: LD DT,Vx. Opcode numbers: D2 (log entry 3). -/
def Obligations.SetDelayTimer : Prop :=
  ∀ x : Nibble, decode (wordXKK 0xF x 0x15) = .instr (.ldDtVx x) ∧
    ∀ s : State, ∃ t, exec (.ldDtVx x) s = .next t ∧ t.pc = s.pc + 2 ∧ t.dt = s.getV x ∧
      Frame { pc := true, dt := true } s t

/-- R205, R230: LD ST,Vx; the tone is on at the end of the step exactly when the value is not 0. Opcode numbers:
D2 (log entry 3). -/
def Obligations.SetSoundTimer : Prop :=
  ∀ x : Nibble, decode (wordXKK 0xF x 0x18) = .instr (.ldStVx x) ∧
    ∀ s : State, ∃ t, exec (.ldStVx x) s = .next t ∧ t.pc = s.pc + 2 ∧ t.st = s.getV x ∧
      (tone t = true ↔ s.getV x ≠ 0) ∧ Frame { pc := true, st := true } s t

/-! ### Runs -/

/-- R225: over RUNNING steps that do not write a timer, it is `max(m - j, 0)` after `j` of them. -/
def Obligations.TimersOverManySteps : Prop :=
  ∀ (f : Nat → State) (j : Nat), Trajectory f j → (∀ k, k < j → Running (f k)) →
    ((∀ k x, k < j → fetched (f k) ≠ some (.instr (.ldDtVx x))) →
      (f j).dt.toNat = (f 0).dt.toNat - j) ∧
    ((∀ k x, k < j → fetched (f k) ≠ some (.instr (.ldStVx x))) →
      (f j).st.toNat = (f 0).st.toNat - j)

/-- R248: after N RUNNING steps that each return `Next`, none faulting, `pc` has advanced by 2N; from the reset
`pc` it is 0x200 + 2N. -/
def Obligations.StepsThatReturnNextAdvancePc : Prop :=
  ∀ (f : Nat → State) (n : Nat), Trajectory f n → (f n).halted = false →
    (∀ k, k < n → Running (f k) ∧ ∃ v, fetched (f k) = some v ∧ returnsNext v (f k) = true) →
    (f n).pc.toNat = (f 0).pc.toNat + 2 * n ∧
    ((f 0).pc = 0x200 → (f n).pc.toNat = 0x200 + 2 * n)

/-! ### The host's operations (spec/60_exceptions.md, spec/70_reset_and_hazards.md) -/

/-- R243: `load` puts byte `k` at 0x200 + k while that is at most 4095, drops the rest, and changes nothing
else. -/
def Obligations.LoadCopiesTheImage : Prop :=
  ∀ (s : State) (bytes : List Byte),
    (∀ k, ∀ h : k < bytes.length, 0x200 + k ≤ 4095 →
      (s.loadProgram bytes).memRead (0x200 + k) = some bytes[k]) ∧
    (∀ a, (a < 0x200 ∨ 0x200 + bytes.length ≤ a) →
      (s.loadProgram bytes).memRead a = s.memRead a) ∧
    Frame { mem := true } s (s.loadProgram bytes)

/-- R228: `set_keypad` replaces the whole latch in any control state and changes nothing else; the captured key
waits for the next AWAITING step. No step writes the latch, so without the call it keeps its last value. -/
def Obligations.SetKeypadReplacesTheLatch : Prop :=
  (∀ (s : State) (keys : Keypad), ∃ t, applyOp (.setKeypad keys) s = .next t ∧
    (∀ k : Fin 16, t.keypad[k] = keys[k]) ∧ Frame { keypad := true } s t) ∧
  ∀ s t : State, step s = .next t → t.keypad = s.keypad
end

