-- ==== Sys2Proof/Laws/Decode.lean ====
section
/-!
SUPPORT. Words and fields as numbers, the fields of a word that was put together from fields (R92), and a word
as its fields put together.
-/

namespace Sys2Proof

/-! ### Words and fields as numbers -/

theorem wordXYN_toNat (op x y n : Nibble) :
    (wordXYN op x y n).toNat = op.toNat * 4096 + x.toNat * 256 + y.toNat * 16 + n.toNat := by
  have := x.isLt; have := y.isLt; have := n.isLt
  unfold wordXYN
  rw [BitVec.toNat_append, ← Nat.shiftLeft_add_eq_or_of_lt n.isLt,
    BitVec.toNat_append, ← Nat.shiftLeft_add_eq_or_of_lt y.isLt,
    BitVec.toNat_append, ← Nat.shiftLeft_add_eq_or_of_lt x.isLt]
  simp only [Nat.shiftLeft_eq]; omega

theorem wordXKK_toNat (op x : Nibble) (kk : Byte) :
    (wordXKK op x kk).toNat = op.toNat * 4096 + x.toNat * 256 + kk.toNat := by
  have := x.isLt
  unfold wordXKK
  rw [BitVec.toNat_append, ← Nat.shiftLeft_add_eq_or_of_lt kk.isLt,
    BitVec.toNat_append, ← Nat.shiftLeft_add_eq_or_of_lt x.isLt]
  simp only [Nat.shiftLeft_eq]; omega

theorem wordNNN_toNat (op : Nibble) (nnn : Imm12) :
    (wordNNN op nnn).toNat = op.toNat * 4096 + nnn.toNat := by
  unfold wordNNN
  rw [BitVec.toNat_append, ← Nat.shiftLeft_add_eq_or_of_lt nnn.isLt]
  simp only [Nat.shiftLeft_eq]

theorem opOf_toNat (w : Word) : (opOf w).toNat = w.toNat / 4096 := by
  have := w.isLt
  simp only [opOf, BitVec.extractLsb'_toNat, Nat.shiftRight_eq_div_pow]; omega

theorem xOf_toNat (w : Word) : (xOf w).toNat = w.toNat / 256 % 16 := by
  simp only [xOf, BitVec.extractLsb'_toNat, Nat.shiftRight_eq_div_pow]

theorem yOf_toNat (w : Word) : (yOf w).toNat = w.toNat / 16 % 16 := by
  simp only [yOf, BitVec.extractLsb'_toNat, Nat.shiftRight_eq_div_pow]

theorem nOf_toNat (w : Word) : (nOf w).toNat = w.toNat % 16 := by
  simp only [nOf, BitVec.extractLsb'_toNat, Nat.shiftRight_eq_div_pow]; omega

theorem kkOf_toNat (w : Word) : (kkOf w).toNat = w.toNat % 256 := by
  simp only [kkOf, BitVec.extractLsb'_toNat, Nat.shiftRight_eq_div_pow]; omega

theorem nnnOf_toNat (w : Word) : (nnnOf w).toNat = w.toNat % 4096 := by
  simp only [nnnOf, BitVec.extractLsb'_toNat, Nat.shiftRight_eq_div_pow]; omega

/-! ### The fields of a word put together from fields -/

section
variable (op x y n : Nibble) (kk : Byte) (nnn : Imm12)

@[simp] theorem opOf_wordXYN : opOf (wordXYN op x y n) = op := by
  apply BitVec.eq_of_toNat_eq
  have := op.isLt; have := x.isLt; have := y.isLt; have := n.isLt
  rw [opOf_toNat, wordXYN_toNat]; omega

@[simp] theorem xOf_wordXYN : xOf (wordXYN op x y n) = x := by
  apply BitVec.eq_of_toNat_eq
  have := op.isLt; have := x.isLt; have := y.isLt; have := n.isLt
  rw [xOf_toNat, wordXYN_toNat]; omega

@[simp] theorem yOf_wordXYN : yOf (wordXYN op x y n) = y := by
  apply BitVec.eq_of_toNat_eq
  have := op.isLt; have := x.isLt; have := y.isLt; have := n.isLt
  rw [yOf_toNat, wordXYN_toNat]; omega

@[simp] theorem nOf_wordXYN : nOf (wordXYN op x y n) = n := by
  apply BitVec.eq_of_toNat_eq
  have := op.isLt; have := x.isLt; have := y.isLt; have := n.isLt
  rw [nOf_toNat, wordXYN_toNat]; omega

@[simp] theorem opOf_wordXKK : opOf (wordXKK op x kk) = op := by
  apply BitVec.eq_of_toNat_eq
  have := op.isLt; have := x.isLt; have := kk.isLt
  rw [opOf_toNat, wordXKK_toNat]; omega

@[simp] theorem xOf_wordXKK : xOf (wordXKK op x kk) = x := by
  apply BitVec.eq_of_toNat_eq
  have := op.isLt; have := x.isLt; have := kk.isLt
  rw [xOf_toNat, wordXKK_toNat]; omega

@[simp] theorem kkOf_wordXKK : kkOf (wordXKK op x kk) = kk := by
  apply BitVec.eq_of_toNat_eq
  have := op.isLt; have := x.isLt; have := kk.isLt
  rw [kkOf_toNat, wordXKK_toNat]; omega

@[simp] theorem opOf_wordNNN : opOf (wordNNN op nnn) = op := by
  apply BitVec.eq_of_toNat_eq
  have := op.isLt; have := nnn.isLt
  rw [opOf_toNat, wordNNN_toNat]; omega

@[simp] theorem nnnOf_wordNNN : nnnOf (wordNNN op nnn) = nnn := by
  apply BitVec.eq_of_toNat_eq
  have := op.isLt; have := nnn.isLt
  rw [nnnOf_toNat, wordNNN_toNat]; omega

end

/-! ### A word is its fields put together -/

theorem wordXYN_fields (w : Word) : wordXYN (opOf w) (xOf w) (yOf w) (nOf w) = w := by
  apply BitVec.eq_of_toNat_eq
  have := w.isLt
  rw [wordXYN_toNat, opOf_toNat, xOf_toNat, yOf_toNat, nOf_toNat]; omega

theorem wordXKK_fields (w : Word) : wordXKK (opOf w) (xOf w) (kkOf w) = w := by
  apply BitVec.eq_of_toNat_eq
  have := w.isLt
  rw [wordXKK_toNat, opOf_toNat, xOf_toNat, kkOf_toNat]; omega

theorem wordNNN_fields (w : Word) : wordNNN (opOf w) (nnnOf w) = w := by
  apply BitVec.eq_of_toNat_eq
  have := w.isLt
  rw [wordNNN_toNat, opOf_toNat, nnnOf_toNat]; omega

/-! ### A masked word is the word of the masked fields -/

theorem wordXYN_and (op x y n op' x' y' n' : Nibble) :
    wordXYN op x y n &&& wordXYN op' x' y' n' =
      wordXYN (op &&& op') (x &&& x') (y &&& y') (n &&& n') := by
  have h1 : op ++ x &&& op' ++ x' = (op &&& op') ++ (x &&& x') := BitVec.and_append
  have h2 : op ++ x ++ y &&& op' ++ x' ++ y' = (op &&& op') ++ (x &&& x') ++ (y &&& y') :=
    BitVec.and_append.trans (by rw [h1])
  have h3 : op ++ x ++ y ++ n &&& op' ++ x' ++ y' ++ n' =
      (op &&& op') ++ (x &&& x') ++ (y &&& y') ++ (n &&& n') :=
    BitVec.and_append.trans (by rw [h2])
  exact h3

theorem wordXKK_and (op x : Nibble) (kk : Byte) (op' x' : Nibble) (kk' : Byte) :
    wordXKK op x kk &&& wordXKK op' x' kk' = wordXKK (op &&& op') (x &&& x') (kk &&& kk') := by
  have h1 : op ++ x &&& op' ++ x' = (op &&& op') ++ (x &&& x') := BitVec.and_append
  have h2 : op ++ x ++ kk &&& op' ++ x' ++ kk' = (op &&& op') ++ (x &&& x') ++ (kk &&& kk') :=
    BitVec.and_append.trans (by rw [h1])
  exact h2

theorem wordNNN_and (op : Nibble) (nnn : Imm12) (op' : Nibble) (nnn' : Imm12) :
    wordNNN op nnn &&& wordNNN op' nnn' = wordNNN (op &&& op') (nnn &&& nnn') :=
  BitVec.and_append

/-! ### The bytes of a word -/

/-- The two bytes of a word, high byte first, make the word again (R61). -/
theorem wordOfBytes_bytesOfWord (w : Word) :
    wordOfBytes (w.extractLsb' 8 8) (w.extractLsb' 0 8) = w := by
  apply BitVec.eq_of_toNat_eq
  have := w.isLt
  unfold wordOfBytes
  rw [BitVec.toNat_append, ← Nat.shiftLeft_add_eq_or_of_lt (BitVec.isLt _)]
  simp only [BitVec.extractLsb'_toNat, Nat.shiftRight_eq_div_pow, Nat.shiftLeft_eq]
  omega

theorem decodeBytes_bytesOfWord (w : Word) (rest : List Byte) :
    decodeBytes (bytesOfWord w ++ rest) = some (decode w, rest) := by
  simp [bytesOfWord, decodeBytes, wordOfBytes_bytesOfWord]

end Sys2Proof
end

