-- ==== Sys2Proof/Laws/Memory.lean ====
section
/-!
SUPPORT. The laws of memory: a read after a write, and that every operation keeps the canonical form.
-/

namespace Sys2Proof.Machine

theorem Memory.read_nil (a : Nat) : Memory.read [] a = Memory.unlisted a := rfl

theorem Memory.read_cons (c : Host.Cell) (m : Memory) (a : Nat) :
    Memory.read (c :: m) a = if c.1 = a then c.2 else Memory.read m a := rfl

theorem Memory.mem_without (m : Memory) (a : Nat) (c : Host.Cell) :
    c ∈ m.without a ↔ c ∈ m ∧ c.1 ≠ a := by
  simp [Memory.without]

theorem Memory.read_without (m : Memory) (a a' : Nat) :
    (m.without a).read a' = if a' = a then Memory.unlisted a else m.read a' := by
  induction m with
  | nil => by_cases h : a' = a <;> simp [Memory.without, Memory.read_nil, h]
  | cons c m ih =>
    have hc : Memory.without (c :: m) a =
        if c.1 = a then Memory.without m a else c :: Memory.without m a := by
      by_cases h : c.1 = a <;> simp [Memory.without, h]
    rw [hc]
    by_cases h : c.1 = a
    · rw [if_pos h, ih, Memory.read_cons]
      by_cases h' : a' = a
      · simp [h']
      · simp [h', h, Ne.symm h']
    · rw [if_neg h, Memory.read_cons, Memory.read_cons, ih]
      by_cases h' : a' = a
      · simp [h', h]
      · simp [h']

theorem Memory.read_put (m : Memory) (a : Nat) (b : Byte) (a' : Nat)
    (h : ∀ c ∈ m, c.1 ≠ a) :
    (m.put a b).read a' = if a' = a then b else m.read a' := by
  induction m with
  | nil => simp [Memory.put, Memory.read_cons, Memory.read_nil, eq_comm]
  | cons c m ih =>
    have hc : c.1 ≠ a := h c (by simp)
    have ih := ih fun d hd => h d (by simp [hd])
    unfold Memory.put
    by_cases hlt : a < c.1
    · simp [hlt, Memory.read_cons, eq_comm]
    · rw [if_neg hlt, Memory.read_cons, Memory.read_cons, ih]
      by_cases h' : a' = a
      · simp [h', hc]
      · simp [h']

/-- A read after a write: the written byte at its address, the old byte everywhere else. -/
theorem Memory.read_write (m : Memory) (a : Nat) (b : Byte) (a' : Nat) :
    (m.write a b).read a' = if a' = a then b else m.read a' := by
  unfold Memory.write
  split
  · next h => rw [Memory.read_without, h]
  · rw [Memory.read_put _ _ _ _ fun c hc => ((Memory.mem_without m a c).1 hc).2, Memory.read_without]
    by_cases h' : a' = a <;> simp [h']

theorem Memory.length_readBytes (m : Memory) (base len : Nat) :
    (m.readBytes base len).length = len := by
  induction len generalizing base with
  | zero => rfl
  | succ len ih => simp [Memory.readBytes, ih]

theorem Memory.getD_readBytes (m : Memory) (base len k : Nat) (d : Byte) :
    (m.readBytes base len).getD k d = if k < len then m.read (base + k) else d := by
  induction len generalizing base k with
  | zero => simp [Memory.readBytes]
  | succ len ih =>
    cases k with
    | zero => simp [Memory.readBytes]
    | succ k =>
      have := ih (base + 1) k
      simp only [Memory.readBytes, List.getD_cons_succ, this, Nat.add_lt_add_iff_right]
      rw [show base + 1 + k = base + (k + 1) by omega]

@[simp] theorem Memory.getElem?_readBytes (m : Memory) (base len k : Nat) :
    (m.readBytes base len)[k]? = if k < len then some (m.read (base + k)) else none := by
  induction len generalizing base k with
  | zero => simp [Memory.readBytes]
  | succ len ih =>
    cases k with
    | zero => simp [Memory.readBytes]
    | succ k =>
      simp only [Memory.readBytes, List.getElem?_cons_succ, ih, Nat.add_lt_add_iff_right]
      rw [show base + 1 + k = base + (k + 1) by omega]

/-- A read after a run of writes: the stored byte inside the run, the old byte everywhere else. -/
theorem Memory.read_writeBytes (m : Memory) (base : Nat) (bytes : List Byte) (a : Nat) :
    (m.writeBytes base bytes).read a =
      if base ≤ a then bytes.getD (a - base) (m.read a) else m.read a := by
  induction bytes generalizing m base with
  | nil => simp [Memory.writeBytes]
  | cons b rest ih =>
    rw [Memory.writeBytes, ih, Memory.read_write]
    by_cases h : a = base
    · subst h; simp
    · by_cases h' : base ≤ a
      · have h1 : base + 1 ≤ a := by omega
        have h2 : a - base = (a - (base + 1)) + 1 := by omega
        simp [h, h', h1, h2]
      · have h1 : ¬ base + 1 ≤ a := by omega
        simp [h, h', h1]

/-- A run of writes leaves every other byte alone. -/
theorem Memory.read_writeBytes_outside (m : Memory) (base : Nat) (bytes : List Byte) (a : Nat)
    (h : a < base ∨ base + bytes.length ≤ a) : (m.writeBytes base bytes).read a = m.read a := by
  rw [Memory.read_writeBytes]
  split
  · rw [List.getD_eq_default _ _ (by omega)]
  · rfl

/-! ### The canonical form -/

theorem Memory.wf_iff (m : Memory) :
    m.wf = true ↔ m.Pairwise (fun c d => c.1 < d.1) ∧
      ∀ c ∈ m, c.1 < 4096 ∧ c.2 ≠ Memory.unlisted c.1 := by
  simp only [Memory.wf, Bool.and_eq_true, decide_eq_true_eq, List.all_eq_true]
  rfl

theorem Memory.wf_nil : Memory.wf [] = true := by decide

theorem Memory.wf_without (m : Memory) (a : Nat) (h : m.wf = true) : (m.without a).wf = true := by
  rw [Memory.wf_iff] at h ⊢
  exact ⟨h.1.filter _, fun c hc => h.2 c ((Memory.mem_without m a c).1 hc).1⟩

theorem Memory.mem_put (m : Memory) (a : Nat) (b : Byte) (c : Host.Cell) :
    c ∈ m.put a b ↔ c = (a, b) ∨ c ∈ m := by
  induction m with
  | nil => simp [Memory.put]
  | cons d m ih =>
    unfold Memory.put
    split
    · simp
    · simp [ih]; tauto

theorem Memory.wf_put (m : Memory) (a : Nat) (b : Byte) (h : m.wf = true)
    (ha : a < 4096) (hb : b ≠ Memory.unlisted a) (hn : ∀ c ∈ m, c.1 ≠ a) :
    (m.put a b).wf = true := by
  rw [Memory.wf_iff] at h ⊢
  obtain ⟨hs, hv⟩ := h
  refine ⟨?_, fun c hc => ?_⟩
  · clear hv
    induction m with
    | nil => simp [Memory.put]
    | cons d m ih =>
      rw [List.pairwise_cons] at hs
      unfold Memory.put
      split
      · next hlt =>
        refine List.pairwise_cons.2 ⟨fun c hc => ?_, List.pairwise_cons.2 hs⟩
        rcases List.mem_cons.1 hc with rfl | hc
        · exact hlt
        · exact lt_trans hlt (hs.1 c hc)
      · next hge =>
        have hda := hn d (by simp)
        refine List.pairwise_cons.2 ⟨fun c hc => ?_, ih (fun c hc => hn c (by simp [hc])) hs.2⟩
        rcases (Memory.mem_put m a b c).1 hc with rfl | hc
        · simp only; omega
        · exact hs.1 c hc
  · rcases (Memory.mem_put m a b c).1 hc with rfl | hc
    · exact ⟨ha, hb⟩
    · exact hv c hc

/-- A write inside memory keeps the canonical form. -/
theorem Memory.wf_write (m : Memory) (a : Nat) (b : Byte) (h : m.wf = true) (ha : a < 4096) :
    (m.write a b).wf = true := by
  unfold Memory.write
  split
  · exact Memory.wf_without m a h
  · next hb =>
    exact Memory.wf_put _ a b (Memory.wf_without m a h) ha hb
      fun c hc => ((Memory.mem_without m a c).1 hc).2

theorem Memory.wf_writeBytes (m : Memory) (base : Nat) (bytes : List Byte) (h : m.wf = true)
    (hb : base + bytes.length ≤ 4096) : (m.writeBytes base bytes).wf = true := by
  induction bytes generalizing m base with
  | nil => exact h
  | cons b rest ih =>
    simp only [List.length_cons] at hb
    exact ih _ _ (Memory.wf_write m base b h (by omega)) (by omega)

theorem Memory.wf_loadFrom (m : Memory) (a : Nat) (bytes : List Byte) (h : m.wf = true) :
    (m.loadFrom a bytes).wf = true := by
  induction bytes generalizing m a with
  | nil => exact h
  | cons b rest ih =>
    refine ih _ _ ?_
    split
    · exact Memory.wf_write m a b h (by omega)
    · exact h

/-- What `load` leaves at an address (R243). -/
theorem Memory.read_loadFrom (m : Memory) (a : Nat) (bytes : List Byte) (a' : Nat) :
    (m.loadFrom a bytes).read a' =
      if a ≤ a' ∧ a' ≤ 4095 then bytes.getD (a' - a) (m.read a') else m.read a' := by
  induction bytes generalizing m a with
  | nil => simp [Memory.loadFrom]
  | cons b rest ih =>
    rw [Memory.loadFrom, ih]
    by_cases h : a' = a
    · subst h
      by_cases h' : a' ≤ 4095 <;> simp [h', Memory.read_write]
    · have hr : ∀ m' : Memory, m' = (if a ≤ 4095 then m.write a b else m) →
          m'.read a' = m.read a' := by
        rintro _ rfl
        split
        · rw [Memory.read_write, if_neg h]
        · rfl
      rw [hr _ rfl]
      by_cases h1 : a + 1 ≤ a' ∧ a' ≤ 4095
      · have h2 : a ≤ a' ∧ a' ≤ 4095 := ⟨by omega, h1.2⟩
        have h3 : a' - a = (a' - (a + 1)) + 1 := by omega
        rw [if_pos h1, if_pos h2, h3, List.getD_cons_succ]
      · have h2 : ¬ (a ≤ a' ∧ a' ≤ 4095) := by omega
        rw [if_neg h1, if_neg h2]

/-- A write of what is there already, or what is unlisted, leaves equal data: equal memories are equal lists. -/
theorem Memory.ext_of_wf (m n : Memory) (hm : m.wf = true) (hn : n.wf = true)
    (h : ∀ a, m.read a = n.read a) : m = n := by
  rw [Memory.wf_iff] at hm hn
  obtain ⟨hms, hmv⟩ := hm
  obtain ⟨hns, hnv⟩ := hn
  have hout : ∀ (l : Memory) (a : Nat), (∀ c ∈ l, a < c.1) → l.read a = Memory.unlisted a := by
    intro l a hl
    induction l with
    | nil => rfl
    | cons c l ih =>
      have := hl c (by simp)
      rw [Memory.read_cons, if_neg (by omega), ih fun d hd => hl d (by simp [hd])]
  induction m generalizing n with
  | nil =>
    cases n with
    | nil => rfl
    | cons d n =>
      have := h d.1
      rw [Memory.read_cons, if_pos rfl, Memory.read_nil] at this
      exact absurd this.symm (hnv d (by simp)).2
  | cons c m ih =>
    rw [List.pairwise_cons] at hms
    cases n with
    | nil =>
      have := h c.1
      rw [Memory.read_cons, if_pos rfl, Memory.read_nil] at this
      exact absurd this (hmv c (by simp)).2
    | cons d n =>
      rw [List.pairwise_cons] at hns
      have hlt : ¬ c.1 < d.1 := by
        intro hlt
        have := h c.1
        rw [Memory.read_cons, if_pos rfl, hout (d :: n) c.1] at this
        · exact (hmv c (by simp)).2 this
        · intro e he
          rcases List.mem_cons.1 he with rfl | he
          · exact hlt
          · exact lt_trans hlt (hns.1 e he)
      have hgt : ¬ d.1 < c.1 := by
        intro hgt
        have := h d.1
        rw [Memory.read_cons d, if_pos rfl, hout (c :: m) d.1] at this
        · exact (hnv d (by simp)).2 this.symm
        · intro e he
          rcases List.mem_cons.1 he with rfl | he
          · exact hgt
          · exact lt_trans hgt (hms.1 e he)
      have hk : c.1 = d.1 := by omega
      have hv : c.2 = d.2 := by
        have := h c.1
        rwa [Memory.read_cons, if_pos rfl, Memory.read_cons, if_pos hk.symm] at this
      have hcd : c = d := Prod.ext hk hv
      subst hcd
      congr 1
      refine ih n (fun a => ?_) hms.2 (fun e he => hmv e (by simp [he])) hns.2
        fun e he => hnv e (by simp [he])
      by_cases ha : c.1 = a
      · subst ha
        rw [hout m c.1 hms.1, hout n c.1 hns.1]
      · have := h a
        rwa [Memory.read_cons, if_neg ha, Memory.read_cons, if_neg ha] at this

end Sys2Proof.Machine
end

