-- ==== Sys2Proof/Laws/State.lean ====
section
/-!
SUPPORT. What each named update of the state leaves in each field, all by `rfl`, so that no later proof unfolds
a record update.
-/

namespace Sys2Proof.Machine

/-! ### `setMem` -/

@[simp] theorem State.setMem_mem (s : State) (m : Memory) : (s.setMem m).mem = m := rfl
@[simp] theorem State.setMem_v (s : State) (m : Memory) : (s.setMem m).v = s.v := rfl
@[simp] theorem State.setMem_i (s : State) (m : Memory) : (s.setMem m).i = s.i := rfl
@[simp] theorem State.setMem_pc (s : State) (m : Memory) : (s.setMem m).pc = s.pc := rfl
@[simp] theorem State.setMem_sp (s : State) (m : Memory) : (s.setMem m).sp = s.sp := rfl
@[simp] theorem State.setMem_stack (s : State) (m : Memory) : (s.setMem m).stack = s.stack := rfl
@[simp] theorem State.setMem_screen (s : State) (m : Memory) : (s.setMem m).screen = s.screen := rfl
@[simp] theorem State.setMem_keypad (s : State) (m : Memory) : (s.setMem m).keypad = s.keypad := rfl
@[simp] theorem State.setMem_dt (s : State) (m : Memory) : (s.setMem m).dt = s.dt := rfl
@[simp] theorem State.setMem_st (s : State) (m : Memory) : (s.setMem m).st = s.st := rfl
@[simp] theorem State.setMem_awaiting (s : State) (m : Memory) : (s.setMem m).awaiting = s.awaiting := rfl
@[simp] theorem State.setMem_target (s : State) (m : Memory) : (s.setMem m).target = s.target := rfl
@[simp] theorem State.setMem_halted (s : State) (m : Memory) : (s.setMem m).halted = s.halted := rfl
@[simp] theorem State.setMem_fault (s : State) (m : Memory) : (s.setMem m).fault = s.fault := rfl
@[simp] theorem State.setMem_rndCount (s : State) (m : Memory) : (s.setMem m).rndCount = s.rndCount := rfl

/-! ### `setPc` -/

@[simp] theorem State.setPc_mem (s : State) (a : Word) : (s.setPc a).mem = s.mem := rfl
@[simp] theorem State.setPc_v (s : State) (a : Word) : (s.setPc a).v = s.v := rfl
@[simp] theorem State.setPc_i (s : State) (a : Word) : (s.setPc a).i = s.i := rfl
@[simp] theorem State.setPc_pc (s : State) (a : Word) : (s.setPc a).pc = a := rfl
@[simp] theorem State.setPc_sp (s : State) (a : Word) : (s.setPc a).sp = s.sp := rfl
@[simp] theorem State.setPc_stack (s : State) (a : Word) : (s.setPc a).stack = s.stack := rfl
@[simp] theorem State.setPc_screen (s : State) (a : Word) : (s.setPc a).screen = s.screen := rfl
@[simp] theorem State.setPc_keypad (s : State) (a : Word) : (s.setPc a).keypad = s.keypad := rfl
@[simp] theorem State.setPc_dt (s : State) (a : Word) : (s.setPc a).dt = s.dt := rfl
@[simp] theorem State.setPc_st (s : State) (a : Word) : (s.setPc a).st = s.st := rfl
@[simp] theorem State.setPc_awaiting (s : State) (a : Word) :
    (s.setPc a).awaiting = s.awaiting := rfl
@[simp] theorem State.setPc_target (s : State) (a : Word) : (s.setPc a).target = s.target := rfl
@[simp] theorem State.setPc_halted (s : State) (a : Word) : (s.setPc a).halted = s.halted := rfl
@[simp] theorem State.setPc_fault (s : State) (a : Word) : (s.setPc a).fault = s.fault := rfl
@[simp] theorem State.setPc_rndCount (s : State) (a : Word) :
    (s.setPc a).rndCount = s.rndCount := rfl

/-! ### `recordFault` -/

@[simp] theorem State.recordFault_mem (s : State) (f : Fault) : (s.recordFault f).mem = s.mem := rfl
@[simp] theorem State.recordFault_v (s : State) (f : Fault) : (s.recordFault f).v = s.v := rfl
@[simp] theorem State.recordFault_i (s : State) (f : Fault) : (s.recordFault f).i = s.i := rfl
@[simp] theorem State.recordFault_pc (s : State) (f : Fault) : (s.recordFault f).pc = s.pc := rfl
@[simp] theorem State.recordFault_sp (s : State) (f : Fault) : (s.recordFault f).sp = s.sp := rfl
@[simp] theorem State.recordFault_stack (s : State) (f : Fault) :
    (s.recordFault f).stack = s.stack := rfl
@[simp] theorem State.recordFault_screen (s : State) (f : Fault) :
    (s.recordFault f).screen = s.screen := rfl
@[simp] theorem State.recordFault_keypad (s : State) (f : Fault) :
    (s.recordFault f).keypad = s.keypad := rfl
@[simp] theorem State.recordFault_dt (s : State) (f : Fault) : (s.recordFault f).dt = s.dt := rfl
@[simp] theorem State.recordFault_st (s : State) (f : Fault) : (s.recordFault f).st = s.st := rfl
@[simp] theorem State.recordFault_awaiting (s : State) (f : Fault) :
    (s.recordFault f).awaiting = s.awaiting := rfl
@[simp] theorem State.recordFault_target (s : State) (f : Fault) :
    (s.recordFault f).target = s.target := rfl
@[simp] theorem State.recordFault_halted (s : State) (f : Fault) :
    (s.recordFault f).halted = true := rfl
@[simp] theorem State.recordFault_fault (s : State) (f : Fault) :
    (s.recordFault f).fault = some f := rfl
@[simp] theorem State.recordFault_rndCount (s : State) (f : Fault) :
    (s.recordFault f).rndCount = s.rndCount := rfl

/-! ### `tickTimers` -/

@[simp] theorem State.tickTimers_mem (s : State) : (s.tickTimers).mem = s.mem := rfl
@[simp] theorem State.tickTimers_v (s : State) : (s.tickTimers).v = s.v := rfl
@[simp] theorem State.tickTimers_i (s : State) : (s.tickTimers).i = s.i := rfl
@[simp] theorem State.tickTimers_pc (s : State) : (s.tickTimers).pc = s.pc := rfl
@[simp] theorem State.tickTimers_sp (s : State) : (s.tickTimers).sp = s.sp := rfl
@[simp] theorem State.tickTimers_stack (s : State) : (s.tickTimers).stack = s.stack := rfl
@[simp] theorem State.tickTimers_screen (s : State) : (s.tickTimers).screen = s.screen := rfl
@[simp] theorem State.tickTimers_keypad (s : State) : (s.tickTimers).keypad = s.keypad := rfl
@[simp] theorem State.tickTimers_dt (s : State) : (s.tickTimers).dt = countDown s.dt := rfl
@[simp] theorem State.tickTimers_st (s : State) : (s.tickTimers).st = countDown s.st := rfl
@[simp] theorem State.tickTimers_awaiting (s : State) : (s.tickTimers).awaiting = s.awaiting := rfl
@[simp] theorem State.tickTimers_target (s : State) : (s.tickTimers).target = s.target := rfl
@[simp] theorem State.tickTimers_halted (s : State) : (s.tickTimers).halted = s.halted := rfl
@[simp] theorem State.tickTimers_fault (s : State) : (s.tickTimers).fault = s.fault := rfl
@[simp] theorem State.tickTimers_rndCount (s : State) : (s.tickTimers).rndCount = s.rndCount := rfl

/-! ### `setDt` -/

@[simp] theorem State.setDt_mem (s : State) (b : Byte) : (s.setDt b).mem = s.mem := rfl
@[simp] theorem State.setDt_v (s : State) (b : Byte) : (s.setDt b).v = s.v := rfl
@[simp] theorem State.setDt_i (s : State) (b : Byte) : (s.setDt b).i = s.i := rfl
@[simp] theorem State.setDt_pc (s : State) (b : Byte) : (s.setDt b).pc = s.pc := rfl
@[simp] theorem State.setDt_sp (s : State) (b : Byte) : (s.setDt b).sp = s.sp := rfl
@[simp] theorem State.setDt_stack (s : State) (b : Byte) : (s.setDt b).stack = s.stack := rfl
@[simp] theorem State.setDt_screen (s : State) (b : Byte) : (s.setDt b).screen = s.screen := rfl
@[simp] theorem State.setDt_keypad (s : State) (b : Byte) : (s.setDt b).keypad = s.keypad := rfl
@[simp] theorem State.setDt_dt (s : State) (b : Byte) : (s.setDt b).dt = b := rfl
@[simp] theorem State.setDt_st (s : State) (b : Byte) : (s.setDt b).st = s.st := rfl
@[simp] theorem State.setDt_awaiting (s : State) (b : Byte) :
    (s.setDt b).awaiting = s.awaiting := rfl
@[simp] theorem State.setDt_target (s : State) (b : Byte) : (s.setDt b).target = s.target := rfl
@[simp] theorem State.setDt_halted (s : State) (b : Byte) : (s.setDt b).halted = s.halted := rfl
@[simp] theorem State.setDt_fault (s : State) (b : Byte) : (s.setDt b).fault = s.fault := rfl
@[simp] theorem State.setDt_rndCount (s : State) (b : Byte) :
    (s.setDt b).rndCount = s.rndCount := rfl

/-! ### `setSt` -/

@[simp] theorem State.setSt_mem (s : State) (b : Byte) : (s.setSt b).mem = s.mem := rfl
@[simp] theorem State.setSt_v (s : State) (b : Byte) : (s.setSt b).v = s.v := rfl
@[simp] theorem State.setSt_i (s : State) (b : Byte) : (s.setSt b).i = s.i := rfl
@[simp] theorem State.setSt_pc (s : State) (b : Byte) : (s.setSt b).pc = s.pc := rfl
@[simp] theorem State.setSt_sp (s : State) (b : Byte) : (s.setSt b).sp = s.sp := rfl
@[simp] theorem State.setSt_stack (s : State) (b : Byte) : (s.setSt b).stack = s.stack := rfl
@[simp] theorem State.setSt_screen (s : State) (b : Byte) : (s.setSt b).screen = s.screen := rfl
@[simp] theorem State.setSt_keypad (s : State) (b : Byte) : (s.setSt b).keypad = s.keypad := rfl
@[simp] theorem State.setSt_dt (s : State) (b : Byte) : (s.setSt b).dt = s.dt := rfl
@[simp] theorem State.setSt_st (s : State) (b : Byte) : (s.setSt b).st = b := rfl
@[simp] theorem State.setSt_awaiting (s : State) (b : Byte) :
    (s.setSt b).awaiting = s.awaiting := rfl
@[simp] theorem State.setSt_target (s : State) (b : Byte) : (s.setSt b).target = s.target := rfl
@[simp] theorem State.setSt_halted (s : State) (b : Byte) : (s.setSt b).halted = s.halted := rfl
@[simp] theorem State.setSt_fault (s : State) (b : Byte) : (s.setSt b).fault = s.fault := rfl
@[simp] theorem State.setSt_rndCount (s : State) (b : Byte) :
    (s.setSt b).rndCount = s.rndCount := rfl

/-! ### `enterWait` -/

@[simp] theorem State.enterWait_mem (s : State) (x : Nibble) : (s.enterWait x).mem = s.mem := rfl
@[simp] theorem State.enterWait_v (s : State) (x : Nibble) : (s.enterWait x).v = s.v := rfl
@[simp] theorem State.enterWait_i (s : State) (x : Nibble) : (s.enterWait x).i = s.i := rfl
@[simp] theorem State.enterWait_pc (s : State) (x : Nibble) : (s.enterWait x).pc = s.pc := rfl
@[simp] theorem State.enterWait_sp (s : State) (x : Nibble) : (s.enterWait x).sp = s.sp := rfl
@[simp] theorem State.enterWait_stack (s : State) (x : Nibble) :
    (s.enterWait x).stack = s.stack := rfl
@[simp] theorem State.enterWait_screen (s : State) (x : Nibble) :
    (s.enterWait x).screen = s.screen := rfl
@[simp] theorem State.enterWait_keypad (s : State) (x : Nibble) :
    (s.enterWait x).keypad = s.keypad := rfl
@[simp] theorem State.enterWait_dt (s : State) (x : Nibble) : (s.enterWait x).dt = s.dt := rfl
@[simp] theorem State.enterWait_st (s : State) (x : Nibble) : (s.enterWait x).st = s.st := rfl
@[simp] theorem State.enterWait_awaiting (s : State) (x : Nibble) :
    (s.enterWait x).awaiting = true := rfl
@[simp] theorem State.enterWait_target (s : State) (x : Nibble) : (s.enterWait x).target = x := rfl
@[simp] theorem State.enterWait_halted (s : State) (x : Nibble) :
    (s.enterWait x).halted = s.halted := rfl
@[simp] theorem State.enterWait_fault (s : State) (x : Nibble) :
    (s.enterWait x).fault = s.fault := rfl
@[simp] theorem State.enterWait_rndCount (s : State) (x : Nibble) :
    (s.enterWait x).rndCount = s.rndCount := rfl

/-! ### `endWait` -/

@[simp] theorem State.endWait_mem (s : State) : (s.endWait).mem = s.mem := rfl
@[simp] theorem State.endWait_v (s : State) : (s.endWait).v = s.v := rfl
@[simp] theorem State.endWait_i (s : State) : (s.endWait).i = s.i := rfl
@[simp] theorem State.endWait_pc (s : State) : (s.endWait).pc = s.pc := rfl
@[simp] theorem State.endWait_sp (s : State) : (s.endWait).sp = s.sp := rfl
@[simp] theorem State.endWait_stack (s : State) : (s.endWait).stack = s.stack := rfl
@[simp] theorem State.endWait_screen (s : State) : (s.endWait).screen = s.screen := rfl
@[simp] theorem State.endWait_keypad (s : State) : (s.endWait).keypad = s.keypad := rfl
@[simp] theorem State.endWait_dt (s : State) : (s.endWait).dt = s.dt := rfl
@[simp] theorem State.endWait_st (s : State) : (s.endWait).st = s.st := rfl
@[simp] theorem State.endWait_awaiting (s : State) : (s.endWait).awaiting = false := rfl
@[simp] theorem State.endWait_target (s : State) : (s.endWait).target = s.target := rfl
@[simp] theorem State.endWait_halted (s : State) : (s.endWait).halted = s.halted := rfl
@[simp] theorem State.endWait_fault (s : State) : (s.endWait).fault = s.fault := rfl
@[simp] theorem State.endWait_rndCount (s : State) : (s.endWait).rndCount = s.rndCount := rfl

/-! ### `consumeRnd` -/

@[simp] theorem State.consumeRnd_mem (s : State) : (s.consumeRnd).mem = s.mem := rfl
@[simp] theorem State.consumeRnd_v (s : State) : (s.consumeRnd).v = s.v := rfl
@[simp] theorem State.consumeRnd_i (s : State) : (s.consumeRnd).i = s.i := rfl
@[simp] theorem State.consumeRnd_pc (s : State) : (s.consumeRnd).pc = s.pc := rfl
@[simp] theorem State.consumeRnd_sp (s : State) : (s.consumeRnd).sp = s.sp := rfl
@[simp] theorem State.consumeRnd_stack (s : State) : (s.consumeRnd).stack = s.stack := rfl
@[simp] theorem State.consumeRnd_screen (s : State) : (s.consumeRnd).screen = s.screen := rfl
@[simp] theorem State.consumeRnd_keypad (s : State) : (s.consumeRnd).keypad = s.keypad := rfl
@[simp] theorem State.consumeRnd_dt (s : State) : (s.consumeRnd).dt = s.dt := rfl
@[simp] theorem State.consumeRnd_st (s : State) : (s.consumeRnd).st = s.st := rfl
@[simp] theorem State.consumeRnd_awaiting (s : State) : (s.consumeRnd).awaiting = s.awaiting := rfl
@[simp] theorem State.consumeRnd_target (s : State) : (s.consumeRnd).target = s.target := rfl
@[simp] theorem State.consumeRnd_halted (s : State) : (s.consumeRnd).halted = s.halted := rfl
@[simp] theorem State.consumeRnd_fault (s : State) : (s.consumeRnd).fault = s.fault := rfl
@[simp] theorem State.consumeRnd_rndCount (s : State) :
    (s.consumeRnd).rndCount = s.rndCount + 1 := rfl

/-! ### `setV` -/

@[simp] theorem State.setV_mem (s : State) (x : Nibble) (b : Byte) : (s.setV x b).mem = s.mem := rfl
@[simp] theorem State.setV_v (s : State) (x : Nibble) (b : Byte) :
    (s.setV x b).v = s.v.set x.toNat b x.isLt := rfl
@[simp] theorem State.setV_i (s : State) (x : Nibble) (b : Byte) : (s.setV x b).i = s.i := rfl
@[simp] theorem State.setV_pc (s : State) (x : Nibble) (b : Byte) : (s.setV x b).pc = s.pc := rfl
@[simp] theorem State.setV_sp (s : State) (x : Nibble) (b : Byte) : (s.setV x b).sp = s.sp := rfl
@[simp] theorem State.setV_stack (s : State) (x : Nibble) (b : Byte) :
    (s.setV x b).stack = s.stack := rfl
@[simp] theorem State.setV_screen (s : State) (x : Nibble) (b : Byte) :
    (s.setV x b).screen = s.screen := rfl
@[simp] theorem State.setV_keypad (s : State) (x : Nibble) (b : Byte) :
    (s.setV x b).keypad = s.keypad := rfl
@[simp] theorem State.setV_dt (s : State) (x : Nibble) (b : Byte) : (s.setV x b).dt = s.dt := rfl
@[simp] theorem State.setV_st (s : State) (x : Nibble) (b : Byte) : (s.setV x b).st = s.st := rfl
@[simp] theorem State.setV_awaiting (s : State) (x : Nibble) (b : Byte) :
    (s.setV x b).awaiting = s.awaiting := rfl
@[simp] theorem State.setV_target (s : State) (x : Nibble) (b : Byte) :
    (s.setV x b).target = s.target := rfl
@[simp] theorem State.setV_halted (s : State) (x : Nibble) (b : Byte) :
    (s.setV x b).halted = s.halted := rfl
@[simp] theorem State.setV_fault (s : State) (x : Nibble) (b : Byte) :
    (s.setV x b).fault = s.fault := rfl
@[simp] theorem State.setV_rndCount (s : State) (x : Nibble) (b : Byte) :
    (s.setV x b).rndCount = s.rndCount := rfl

/-! ### `setI` -/

@[simp] theorem State.setI_mem (s : State) (a : Word) : (s.setI a).mem = s.mem := rfl
@[simp] theorem State.setI_v (s : State) (a : Word) : (s.setI a).v = s.v := rfl
@[simp] theorem State.setI_i (s : State) (a : Word) : (s.setI a).i = a := rfl
@[simp] theorem State.setI_pc (s : State) (a : Word) : (s.setI a).pc = s.pc := rfl
@[simp] theorem State.setI_sp (s : State) (a : Word) : (s.setI a).sp = s.sp := rfl
@[simp] theorem State.setI_stack (s : State) (a : Word) : (s.setI a).stack = s.stack := rfl
@[simp] theorem State.setI_screen (s : State) (a : Word) : (s.setI a).screen = s.screen := rfl
@[simp] theorem State.setI_keypad (s : State) (a : Word) : (s.setI a).keypad = s.keypad := rfl
@[simp] theorem State.setI_dt (s : State) (a : Word) : (s.setI a).dt = s.dt := rfl
@[simp] theorem State.setI_st (s : State) (a : Word) : (s.setI a).st = s.st := rfl
@[simp] theorem State.setI_awaiting (s : State) (a : Word) : (s.setI a).awaiting = s.awaiting := rfl
@[simp] theorem State.setI_target (s : State) (a : Word) : (s.setI a).target = s.target := rfl
@[simp] theorem State.setI_halted (s : State) (a : Word) : (s.setI a).halted = s.halted := rfl
@[simp] theorem State.setI_fault (s : State) (a : Word) : (s.setI a).fault = s.fault := rfl
@[simp] theorem State.setI_rndCount (s : State) (a : Word) : (s.setI a).rndCount = s.rndCount := rfl

/-! ### `setBlock` -/

@[simp] theorem State.setBlock_mem (s : State) (bs : List Byte) : (s.setBlock bs).mem = s.mem := rfl
@[simp] theorem State.setBlock_v (s : State) (bs : List Byte) :
    (s.setBlock bs).v = Vector.ofFn fun k : Fin 16 => bs.getD k.val s.v[k] := rfl
@[simp] theorem State.setBlock_i (s : State) (bs : List Byte) : (s.setBlock bs).i = s.i := rfl
@[simp] theorem State.setBlock_pc (s : State) (bs : List Byte) : (s.setBlock bs).pc = s.pc := rfl
@[simp] theorem State.setBlock_sp (s : State) (bs : List Byte) : (s.setBlock bs).sp = s.sp := rfl
@[simp] theorem State.setBlock_stack (s : State) (bs : List Byte) :
    (s.setBlock bs).stack = s.stack := rfl
@[simp] theorem State.setBlock_screen (s : State) (bs : List Byte) :
    (s.setBlock bs).screen = s.screen := rfl
@[simp] theorem State.setBlock_keypad (s : State) (bs : List Byte) :
    (s.setBlock bs).keypad = s.keypad := rfl
@[simp] theorem State.setBlock_dt (s : State) (bs : List Byte) : (s.setBlock bs).dt = s.dt := rfl
@[simp] theorem State.setBlock_st (s : State) (bs : List Byte) : (s.setBlock bs).st = s.st := rfl
@[simp] theorem State.setBlock_awaiting (s : State) (bs : List Byte) :
    (s.setBlock bs).awaiting = s.awaiting := rfl
@[simp] theorem State.setBlock_target (s : State) (bs : List Byte) :
    (s.setBlock bs).target = s.target := rfl
@[simp] theorem State.setBlock_halted (s : State) (bs : List Byte) :
    (s.setBlock bs).halted = s.halted := rfl
@[simp] theorem State.setBlock_fault (s : State) (bs : List Byte) :
    (s.setBlock bs).fault = s.fault := rfl
@[simp] theorem State.setBlock_rndCount (s : State) (bs : List Byte) :
    (s.setBlock bs).rndCount = s.rndCount := rfl

/-! ### `setScreen` -/

@[simp] theorem State.setScreen_mem (s : State) (g : Screen) : (s.setScreen g).mem = s.mem := rfl
@[simp] theorem State.setScreen_v (s : State) (g : Screen) : (s.setScreen g).v = s.v := rfl
@[simp] theorem State.setScreen_i (s : State) (g : Screen) : (s.setScreen g).i = s.i := rfl
@[simp] theorem State.setScreen_pc (s : State) (g : Screen) : (s.setScreen g).pc = s.pc := rfl
@[simp] theorem State.setScreen_sp (s : State) (g : Screen) : (s.setScreen g).sp = s.sp := rfl
@[simp] theorem State.setScreen_stack (s : State) (g : Screen) :
    (s.setScreen g).stack = s.stack := rfl
@[simp] theorem State.setScreen_screen (s : State) (g : Screen) : (s.setScreen g).screen = g := rfl
@[simp] theorem State.setScreen_keypad (s : State) (g : Screen) :
    (s.setScreen g).keypad = s.keypad := rfl
@[simp] theorem State.setScreen_dt (s : State) (g : Screen) : (s.setScreen g).dt = s.dt := rfl
@[simp] theorem State.setScreen_st (s : State) (g : Screen) : (s.setScreen g).st = s.st := rfl
@[simp] theorem State.setScreen_awaiting (s : State) (g : Screen) :
    (s.setScreen g).awaiting = s.awaiting := rfl
@[simp] theorem State.setScreen_target (s : State) (g : Screen) :
    (s.setScreen g).target = s.target := rfl
@[simp] theorem State.setScreen_halted (s : State) (g : Screen) :
    (s.setScreen g).halted = s.halted := rfl
@[simp] theorem State.setScreen_fault (s : State) (g : Screen) :
    (s.setScreen g).fault = s.fault := rfl
@[simp] theorem State.setScreen_rndCount (s : State) (g : Screen) :
    (s.setScreen g).rndCount = s.rndCount := rfl

/-! ### `loadProgram` -/

@[simp] theorem State.loadProgram_mem (s : State) (bs : List Byte) :
    (s.loadProgram bs).mem = s.mem.loadFrom Config.progBase bs := rfl
@[simp] theorem State.loadProgram_v (s : State) (bs : List Byte) : (s.loadProgram bs).v = s.v := rfl
@[simp] theorem State.loadProgram_i (s : State) (bs : List Byte) : (s.loadProgram bs).i = s.i := rfl
@[simp] theorem State.loadProgram_pc (s : State) (bs : List Byte) :
    (s.loadProgram bs).pc = s.pc := rfl
@[simp] theorem State.loadProgram_sp (s : State) (bs : List Byte) :
    (s.loadProgram bs).sp = s.sp := rfl
@[simp] theorem State.loadProgram_stack (s : State) (bs : List Byte) :
    (s.loadProgram bs).stack = s.stack := rfl
@[simp] theorem State.loadProgram_screen (s : State) (bs : List Byte) :
    (s.loadProgram bs).screen = s.screen := rfl
@[simp] theorem State.loadProgram_keypad (s : State) (bs : List Byte) :
    (s.loadProgram bs).keypad = s.keypad := rfl
@[simp] theorem State.loadProgram_dt (s : State) (bs : List Byte) :
    (s.loadProgram bs).dt = s.dt := rfl
@[simp] theorem State.loadProgram_st (s : State) (bs : List Byte) :
    (s.loadProgram bs).st = s.st := rfl
@[simp] theorem State.loadProgram_awaiting (s : State) (bs : List Byte) :
    (s.loadProgram bs).awaiting = s.awaiting := rfl
@[simp] theorem State.loadProgram_target (s : State) (bs : List Byte) :
    (s.loadProgram bs).target = s.target := rfl
@[simp] theorem State.loadProgram_halted (s : State) (bs : List Byte) :
    (s.loadProgram bs).halted = s.halted := rfl
@[simp] theorem State.loadProgram_fault (s : State) (bs : List Byte) :
    (s.loadProgram bs).fault = s.fault := rfl
@[simp] theorem State.loadProgram_rndCount (s : State) (bs : List Byte) :
    (s.loadProgram bs).rndCount = s.rndCount := rfl

/-! ### `setKeypad` -/

@[simp] theorem State.setKeypad_mem (s : State) (ks : Keypad) : (s.setKeypad ks).mem = s.mem := rfl
@[simp] theorem State.setKeypad_v (s : State) (ks : Keypad) : (s.setKeypad ks).v = s.v := rfl
@[simp] theorem State.setKeypad_i (s : State) (ks : Keypad) : (s.setKeypad ks).i = s.i := rfl
@[simp] theorem State.setKeypad_pc (s : State) (ks : Keypad) : (s.setKeypad ks).pc = s.pc := rfl
@[simp] theorem State.setKeypad_sp (s : State) (ks : Keypad) : (s.setKeypad ks).sp = s.sp := rfl
@[simp] theorem State.setKeypad_stack (s : State) (ks : Keypad) :
    (s.setKeypad ks).stack = s.stack := rfl
@[simp] theorem State.setKeypad_screen (s : State) (ks : Keypad) :
    (s.setKeypad ks).screen = s.screen := rfl
@[simp] theorem State.setKeypad_keypad (s : State) (ks : Keypad) :
    (s.setKeypad ks).keypad = ks := rfl
@[simp] theorem State.setKeypad_dt (s : State) (ks : Keypad) : (s.setKeypad ks).dt = s.dt := rfl
@[simp] theorem State.setKeypad_st (s : State) (ks : Keypad) : (s.setKeypad ks).st = s.st := rfl
@[simp] theorem State.setKeypad_awaiting (s : State) (ks : Keypad) :
    (s.setKeypad ks).awaiting = s.awaiting := rfl
@[simp] theorem State.setKeypad_target (s : State) (ks : Keypad) :
    (s.setKeypad ks).target = s.target := rfl
@[simp] theorem State.setKeypad_halted (s : State) (ks : Keypad) :
    (s.setKeypad ks).halted = s.halted := rfl
@[simp] theorem State.setKeypad_fault (s : State) (ks : Keypad) :
    (s.setKeypad ks).fault = s.fault := rfl
@[simp] theorem State.setKeypad_rndCount (s : State) (ks : Keypad) :
    (s.setKeypad ks).rndCount = s.rndCount := rfl

/-! ### The flag writes: only the registers change -/

@[simp] theorem State.setFlag_mem (s : State) (c : Bool) :
    (s.setFlag c).mem = s.mem := rfl
@[simp] theorem State.setFlag_i (s : State) (c : Bool) :
    (s.setFlag c).i = s.i := rfl
@[simp] theorem State.setFlag_pc (s : State) (c : Bool) :
    (s.setFlag c).pc = s.pc := rfl
@[simp] theorem State.setFlag_sp (s : State) (c : Bool) :
    (s.setFlag c).sp = s.sp := rfl
@[simp] theorem State.setFlag_stack (s : State) (c : Bool) :
    (s.setFlag c).stack = s.stack := rfl
@[simp] theorem State.setFlag_screen (s : State) (c : Bool) :
    (s.setFlag c).screen = s.screen := rfl
@[simp] theorem State.setFlag_keypad (s : State) (c : Bool) :
    (s.setFlag c).keypad = s.keypad := rfl
@[simp] theorem State.setFlag_dt (s : State) (c : Bool) :
    (s.setFlag c).dt = s.dt := rfl
@[simp] theorem State.setFlag_st (s : State) (c : Bool) :
    (s.setFlag c).st = s.st := rfl
@[simp] theorem State.setFlag_awaiting (s : State) (c : Bool) :
    (s.setFlag c).awaiting = s.awaiting := rfl
@[simp] theorem State.setFlag_target (s : State) (c : Bool) :
    (s.setFlag c).target = s.target := rfl
@[simp] theorem State.setFlag_halted (s : State) (c : Bool) :
    (s.setFlag c).halted = s.halted := rfl
@[simp] theorem State.setFlag_fault (s : State) (c : Bool) :
    (s.setFlag c).fault = s.fault := rfl
@[simp] theorem State.setFlag_rndCount (s : State) (c : Bool) :
    (s.setFlag c).rndCount = s.rndCount := rfl

@[simp] theorem State.setVFlag_mem (s : State) (x : Nibble) (b : Byte) (c : Bool) :
    (s.setVFlag x b c).mem = s.mem := rfl
@[simp] theorem State.setVFlag_i (s : State) (x : Nibble) (b : Byte) (c : Bool) :
    (s.setVFlag x b c).i = s.i := rfl
@[simp] theorem State.setVFlag_pc (s : State) (x : Nibble) (b : Byte) (c : Bool) :
    (s.setVFlag x b c).pc = s.pc := rfl
@[simp] theorem State.setVFlag_sp (s : State) (x : Nibble) (b : Byte) (c : Bool) :
    (s.setVFlag x b c).sp = s.sp := rfl
@[simp] theorem State.setVFlag_stack (s : State) (x : Nibble) (b : Byte) (c : Bool) :
    (s.setVFlag x b c).stack = s.stack := rfl
@[simp] theorem State.setVFlag_screen (s : State) (x : Nibble) (b : Byte) (c : Bool) :
    (s.setVFlag x b c).screen = s.screen := rfl
@[simp] theorem State.setVFlag_keypad (s : State) (x : Nibble) (b : Byte) (c : Bool) :
    (s.setVFlag x b c).keypad = s.keypad := rfl
@[simp] theorem State.setVFlag_dt (s : State) (x : Nibble) (b : Byte) (c : Bool) :
    (s.setVFlag x b c).dt = s.dt := rfl
@[simp] theorem State.setVFlag_st (s : State) (x : Nibble) (b : Byte) (c : Bool) :
    (s.setVFlag x b c).st = s.st := rfl
@[simp] theorem State.setVFlag_awaiting (s : State) (x : Nibble) (b : Byte) (c : Bool) :
    (s.setVFlag x b c).awaiting = s.awaiting := rfl
@[simp] theorem State.setVFlag_target (s : State) (x : Nibble) (b : Byte) (c : Bool) :
    (s.setVFlag x b c).target = s.target := rfl
@[simp] theorem State.setVFlag_halted (s : State) (x : Nibble) (b : Byte) (c : Bool) :
    (s.setVFlag x b c).halted = s.halted := rfl
@[simp] theorem State.setVFlag_fault (s : State) (x : Nibble) (b : Byte) (c : Bool) :
    (s.setVFlag x b c).fault = s.fault := rfl
@[simp] theorem State.setVFlag_rndCount (s : State) (x : Nibble) (b : Byte) (c : Bool) :
    (s.setVFlag x b c).rndCount = s.rndCount := rfl

/-! ### The directive: only `pc` changes -/

@[simp] theorem applyDirective_mem (d : Directive) (s : State) :
    (applyDirective d s).mem = s.mem := by cases d <;> rfl
@[simp] theorem applyDirective_v (d : Directive) (s : State) :
    (applyDirective d s).v = s.v := by cases d <;> rfl
@[simp] theorem applyDirective_i (d : Directive) (s : State) :
    (applyDirective d s).i = s.i := by cases d <;> rfl
@[simp] theorem applyDirective_sp (d : Directive) (s : State) :
    (applyDirective d s).sp = s.sp := by cases d <;> rfl
@[simp] theorem applyDirective_stack (d : Directive) (s : State) :
    (applyDirective d s).stack = s.stack := by cases d <;> rfl
@[simp] theorem applyDirective_screen (d : Directive) (s : State) :
    (applyDirective d s).screen = s.screen := by cases d <;> rfl
@[simp] theorem applyDirective_keypad (d : Directive) (s : State) :
    (applyDirective d s).keypad = s.keypad := by cases d <;> rfl
@[simp] theorem applyDirective_dt (d : Directive) (s : State) :
    (applyDirective d s).dt = s.dt := by cases d <;> rfl
@[simp] theorem applyDirective_st (d : Directive) (s : State) :
    (applyDirective d s).st = s.st := by cases d <;> rfl
@[simp] theorem applyDirective_awaiting (d : Directive) (s : State) :
    (applyDirective d s).awaiting = s.awaiting := by cases d <;> rfl
@[simp] theorem applyDirective_target (d : Directive) (s : State) :
    (applyDirective d s).target = s.target := by cases d <;> rfl
@[simp] theorem applyDirective_halted (d : Directive) (s : State) :
    (applyDirective d s).halted = s.halted := by cases d <;> rfl
@[simp] theorem applyDirective_fault (d : Directive) (s : State) :
    (applyDirective d s).fault = s.fault := by cases d <;> rfl
@[simp] theorem applyDirective_rndCount (d : Directive) (s : State) :
    (applyDirective d s).rndCount = s.rndCount := by cases d <;> rfl

@[simp] theorem applyDirective_next_pc (s : State) : (applyDirective .next s).pc = s.pc + 2 := rfl
@[simp] theorem applyDirective_skip_pc (s : State) : (applyDirective .skip s).pc = s.pc + 4 := rfl
@[simp] theorem applyDirective_jump_pc (a : Word) (s : State) : (applyDirective (.jump a) s).pc = a := rfl

end Sys2Proof.Machine
end

