-- ==== Sys2Proof/Laws/Operands.lean ====
section
/-!
SUPPORT. The laws of the operand forms: registers, register blocks, pixels, keys, and the flag writes.
-/

namespace Sys2Proof.Machine

/-! ### Registers -/

theorem State.getV_congr (s t : State) (h : t.v = s.v) (k : Nibble) : t.getV k = s.getV k := by
  simp only [State.getV, h]

/-- A register read after a register write. -/
@[simp] theorem State.getV_setV (s : State) (x : Nibble) (b : Byte) (k : Nibble) :
    (s.setV x b).getV k = if k = x then b else s.getV k := by
  unfold State.getV State.setV
  simp only [Vector.getElem_set, BitVec.toNat_inj, eq_comm (a := x)]

@[simp] theorem State.getV_setFlag (s : State) (c : Bool) (k : Nibble) :
    (s.setFlag c).getV k = if k = vf then flagByte c else s.getV k := by
  simp [State.setFlag]

/-- The write order of R162: the flag wins where `x` is 15. -/
@[simp] theorem State.getV_setVFlag (s : State) (x : Nibble) (b : Byte) (c : Bool) (k : Nibble) :
    (s.setVFlag x b c).getV k = if k = vf then flagByte c else if k = x then b else s.getV k := by
  simp [State.setVFlag]

/-- Registers inside the block take the bytes, the others keep their values. -/
@[simp] theorem State.getV_setBlock (s : State) (bytes : List Byte) (k : Nibble) :
    (s.setBlock bytes).getV k = bytes.getD k.toNat (s.getV k) := by
  unfold State.getV State.setBlock
  simp only [Vector.getElem_ofFn, Fin.getElem_fin]

@[simp] theorem State.getV_setPc (s : State) (a : Word) (k : Nibble) :
    (s.setPc a).getV k = s.getV k := rfl

@[simp] theorem State.getV_setMem (s : State) (m : Memory) (k : Nibble) :
    (s.setMem m).getV k = s.getV k := rfl

@[simp] theorem State.getV_setI (s : State) (a : Word) (k : Nibble) :
    (s.setI a).getV k = s.getV k := rfl

@[simp] theorem State.getV_setScreen (s : State) (g : Screen) (k : Nibble) :
    (s.setScreen g).getV k = s.getV k := rfl

@[simp] theorem State.getV_setDt (s : State) (b : Byte) (k : Nibble) :
    (s.setDt b).getV k = s.getV k := rfl

@[simp] theorem State.getV_setSt (s : State) (b : Byte) (k : Nibble) :
    (s.setSt b).getV k = s.getV k := rfl

@[simp] theorem State.getV_tickTimers (s : State) (k : Nibble) :
    s.tickTimers.getV k = s.getV k := rfl

@[simp] theorem State.getV_consumeRnd (s : State) (k : Nibble) :
    s.consumeRnd.getV k = s.getV k := rfl

@[simp] theorem State.getV_enterWait (s : State) (x k : Nibble) :
    (s.enterWait x).getV k = s.getV k := rfl

@[simp] theorem State.getV_endWait (s : State) (k : Nibble) : s.endWait.getV k = s.getV k := rfl

@[simp] theorem State.getV_recordFault (s : State) (f : Fault) (k : Nibble) :
    (s.recordFault f).getV k = s.getV k := rfl

@[simp] theorem State.getV_applyDirective (d : Directive) (s : State) (k : Nibble) :
    (applyDirective d s).getV k = s.getV k := by cases d <;> rfl

theorem State.length_getBlock (s : State) (x : Nibble) :
    (s.getBlock x).length = x.toNat + 1 := by
  have := x.isLt
  simp [State.getBlock]; omega

/-- Byte `k` of the block is `V[k]`. -/
theorem State.getD_getBlock (s : State) (x k : Nibble) (h : k.toNat ≤ x.toNat) (d : Byte) :
    (s.getBlock x).getD k.toNat d = s.getV k := by
  have h16 : k.toNat < 16 := k.isLt
  have hk : k.toNat < x.toNat + 1 := by omega
  simp [State.getBlock, State.getV, List.getD_eq_getElem?_getD, hk, h16]

/-! ### Pixels -/

/-- A pixel after one pixel was inverted; coordinates are compared after the wrap. -/
theorem Screen.pixel_flip (g : Screen) (r c r' c' : Nat) :
    (g.flip r c).pixel r' c' =
      (g.pixel r' c' ^^ decide (r' % 32 = r % 32 ∧ c' % 64 = c % 64)) := by
  unfold Screen.pixel Screen.flip
  rw [Vector.getElem_set]
  have hc : c' % 64 < 64 := Nat.mod_lt _ (by decide)
  split
  · next h =>
    simp only [BitVec.getLsbD_xor, BitVec.getLsbD_twoPow, h, true_and]
    congr 1
    by_cases h2 : c' % 64 = c % 64
    · simp [h2, h2 ▸ hc]
    · simp [h2, Ne.symm h2]
  · next h => simp [Ne.symm h]

@[simp] theorem Screen.pixel_clear (r c : Nat) : Screen.clear.pixel r c = false := by
  simp [Screen.pixel, Screen.clear]

/-- Two screens with the same 32 by 64 pixels are the same data. -/
theorem Screen.ext_pixel (g h : Screen)
    (hp : ∀ r c, r < 32 → c < 64 → g.pixel r c = h.pixel r c) : g = h := by
  ext r hr c hc
  have := hp r c hr hc
  simp only [Screen.pixel, Nat.mod_eq_of_lt hr, Nat.mod_eq_of_lt hc] at this
  rwa [BitVec.getLsbD_eq_getElem hc, BitVec.getLsbD_eq_getElem hc] at this

/-! ### Keys -/

theorem State.key_eq_none (s : State) (k : Byte) : s.key k = none ↔ 15 < k.toNat := by
  simp [State.key]; omega

theorem State.key_of_le (s : State) (k : Byte) (h : k.toNat < 16) :
    s.key k = some (s.keypad[k.toNat]'h) := by
  simp [State.key, h]

/-- The scan of R123 finds a key exactly when one is down, and then the least one. -/
theorem lowestKey_eq_some (keys : Keypad) (k : Nat) :
    lowestKey keys = some k ↔
      ∃ h : k < 16, keys[k]'h = true ∧ ∀ j : Nat, ∀ hj : j < k, keys[j]'(by omega) = false := by
  unfold lowestKey
  rw [List.findIdx?_eq_some_iff_getElem]
  simp

theorem lowestKey_eq_none (keys : Keypad) :
    lowestKey keys = none ↔ ∀ k : Nat, ∀ h : k < 16, keys[k]'h = false := by
  unfold lowestKey
  rw [List.findIdx?_eq_none_iff]
  constructor
  · intro h k hk
    have := h (keys[k]'hk) (by simp)
    simpa using this
  · intro h b hb
    obtain ⟨k, hk, rfl⟩ := List.getElem_of_mem hb
    simpa using h k (by simpa using hk)

end Sys2Proof.Machine
end

