-- ==== Sys2Proof/Laws/Ops.lean ====
section
/-!
SUPPORT. One lemma per shared operation that says what it can do: the provers cite these and do not unfold the
operations.
-/

namespace Sys2Proof.Machine

/-! ### Endings of a handler -/

theorem complete_eq (d : Directive) (s : State) : complete d s = .next (applyDirective d s) := rfl

theorem skipIf_true (s : State) : skipIf true s = .next (applyDirective .skip s) := rfl

theorem skipIf_false (s : State) : skipIf false s = .next (applyDirective .next s) := rfl

theorem skipIf_eq (c : Bool) (s : State) :
    skipIf c s = .next (s.setPc (if c then s.pc + 4 else s.pc + 2)) := by
  cases c <;> rfl

theorem raiseFault_eq (f : Fault) (s : State) : raiseFault f s = .next (s.recordFault f) := rfl

theorem raiseMemFault_eq (ins : Instr) (len : Nat) (s : State) :
    raiseMemFault ins len s =
      .next (s.recordFault (.memIndexOutOfRange s.pc (encode ins) s.i len)) := rfl

/-! ### Memory accesses -/

theorem inRange_iff (base len : Nat) : inRange base len = true ↔ len = 0 ∨ base + len ≤ 4096 := by
  simp only [inRange, decide_eq_true_eq]; omega

theorem State.memRead_of_le (s : State) (a : Nat) (h : a ≤ 4095) :
    s.memRead a = some (s.mem.read a) := if_pos h

theorem State.memRead_of_gt (s : State) (a : Nat) (h : 4095 < a) : s.memRead a = none :=
  if_neg (by omega)

theorem State.memRead_congr (s t : State) (h : t.mem = s.mem) (a : Nat) :
    t.memRead a = s.memRead a := by
  simp only [State.memRead, h]

theorem State.loadBytes_of_inRange (s : State) (base len : Nat)
    (h : len = 0 ∨ base + len ≤ 4096) :
    s.loadBytes base len = some (s.mem.readBytes base len) :=
  if_pos ((inRange_iff base len).2 h)

theorem State.loadBytes_of_outside (s : State) (base len : Nat) (h0 : len ≠ 0)
    (h : 4096 < base + len) : s.loadBytes base len = none := by
  refine if_neg fun hr => ?_
  rcases (inRange_iff base len).1 hr with h' | h' <;> omega

theorem State.storeBytes_of_inRange (s : State) (base : Nat) (bytes : List Byte)
    (h : bytes.length = 0 ∨ base + bytes.length ≤ 4096) :
    s.storeBytes base bytes = some (s.setMem (s.mem.writeBytes base bytes)) :=
  if_pos ((inRange_iff base bytes.length).2 h)

theorem State.storeBytes_of_outside (s : State) (base : Nat) (bytes : List Byte)
    (h0 : bytes.length ≠ 0) (h : 4096 < base + bytes.length) :
    s.storeBytes base bytes = none := by
  refine if_neg fun hr => ?_
  rcases (inRange_iff base bytes.length).1 hr with h' | h' <;> omega

/-- A block read either is inside memory and answers the bytes there, or answers nothing. -/
theorem State.loadBytes_cases (s : State) (base len : Nat) :
    ((len = 0 ∨ base + len ≤ 4096) ∧
        s.loadBytes base len = some (s.mem.readBytes base len)) ∨
      (len ≠ 0 ∧ 4096 < base + len ∧ s.loadBytes base len = none) := by
  by_cases h : len = 0 ∨ base + len ≤ 4096
  · exact .inl ⟨h, s.loadBytes_of_inRange base len h⟩
  · push Not at h
    exact .inr ⟨h.1, h.2, s.loadBytes_of_outside base len h.1 h.2⟩

/-- A block store either is inside memory and changes only memory, or answers nothing. -/
theorem State.storeBytes_cases (s : State) (base : Nat) (bytes : List Byte) :
    ((bytes.length = 0 ∨ base + bytes.length ≤ 4096) ∧
        s.storeBytes base bytes = some (s.setMem (s.mem.writeBytes base bytes))) ∨
      (bytes.length ≠ 0 ∧ 4096 < base + bytes.length ∧ s.storeBytes base bytes = none) := by
  by_cases h : bytes.length = 0 ∨ base + bytes.length ≤ 4096
  · exact .inl ⟨h, s.storeBytes_of_inRange base bytes h⟩
  · push Not at h
    exact .inr ⟨h.1, h.2, s.storeBytes_of_outside base bytes h.1 h.2⟩

theorem State.fetch16_of_le (s : State) (a : Nat) (h : a ≤ 4094) :
    s.fetch16 a = some (wordOfBytes (s.mem.read a) (s.mem.read (a + 1))) := by
  unfold State.fetch16
  rw [s.memRead_of_le a (by omega), s.memRead_of_le (a + 1) (by omega)]

theorem State.fetch16_of_gt (s : State) (a : Nat) (h : 4094 < a) : s.fetch16 a = none := by
  have h2 : s.memRead (a + 1) = none := s.memRead_of_gt _ (by omega)
  unfold State.fetch16
  rw [h2]
  cases s.memRead a <;> rfl

theorem State.fetch16_congr (s t : State) (h : t.mem = s.mem) (a : Nat) :
    t.fetch16 a = s.fetch16 a := by
  simp only [State.fetch16, State.memRead_congr s t h]

@[simp] theorem State.fetch16_tickTimers (s : State) (a : Nat) :
    s.tickTimers.fetch16 a = s.fetch16 a := rfl

theorem wordOfBytes_toNat (hi lo : Byte) : (wordOfBytes hi lo).toNat = hi.toNat * 256 + lo.toNat := by
  have := lo.isLt
  rw [wordOfBytes, BitVec.toNat_append, ← Nat.shiftLeft_add_eq_or_of_lt this, Nat.shiftLeft_eq]

/-! ### The return stack -/

theorem State.push_of_lt (s : State) (a : Word) (h : s.sp.val < 16) :
    s.push a =
      some { s with stack := s.stack.set s.sp.val a h, sp := ⟨s.sp.val + 1, by omega⟩ } :=
  dif_pos h

theorem State.push_of_full (s : State) (a : Word) (h : s.sp.val = 16) : s.push a = none :=
  dif_neg (by omega)

theorem State.pop_of_pos (s : State) (h : s.sp.val ≠ 0) :
    s.pop = some (s.stack[s.sp.val - 1]'(by omega), { s with sp := ⟨s.sp.val - 1, by omega⟩ }) :=
  dif_neg h

theorem State.pop_of_zero (s : State) (h : s.sp.val = 0) : s.pop = none := dif_pos h

/-! ### Timers -/

theorem countDown_toNat (t : Byte) : (countDown t).toNat = t.toNat - 1 := by
  unfold countDown
  split
  · next h => simp [h]
  · next h =>
    have : t.toNat ≠ 0 := fun h0 => h (BitVec.eq_of_toNat_eq h0)
    have := t.isLt
    rw [BitVec.toNat_sub]; simp; omega

/-! ### Results and flags as numbers -/

theorem addResult_toNat (a b : Byte) : (addResult a b).toNat = (a.toNat + b.toNat) % 256 := by
  simp [addResult]

theorem subResult_toNat (a b : Byte) :
    (subResult a b).toNat = (a.toNat + 256 - b.toNat) % 256 := by
  simp [subResult]

theorem shrResult_toNat (a : Byte) : (shrResult a).toNat = a.toNat / 2 := by
  have := a.isLt
  simp [shrResult]; omega

theorem shlResult_toNat (a : Byte) : (shlResult a).toNat = a.toNat * 2 % 256 := by
  simp [shlResult]

theorem indexSum_toNat (i : Word) (b : Byte) :
    (indexSum i b).toNat = (i.toNat + b.toNat) % 65536 := by
  simp [indexSum]

theorem zext16_toNat_byte (b : Byte) : (zext16 b).toNat = b.toNat := by
  have := b.isLt
  simp [zext16]; omega

theorem zext16_toNat_imm12 (a : Imm12) : (zext16 a).toNat = a.toNat := by
  have := a.isLt
  simp [zext16]; omega

theorem length_bcdDigits (a : Byte) : (bcdDigits a).length = 3 := rfl

end Sys2Proof.Machine
end

