-- ==== Sys2Proof/Laws/Display.lean ====
section
/-!
SUPPORT. The laws of drawing one bit and one row (R191).
-/

namespace Sys2Proof.Machine

theorem drawBit_false (r c : Nat) (acc : Screen × Bool) : drawBit false r c acc = acc := rfl

theorem drawBit_true (r c : Nat) (acc : Screen × Bool) :
    drawBit true r c acc = (acc.1.flip r c, acc.2 || acc.1.pixel r c) := rfl

/-- A pixel after one sprite bit: inverted under a 1 bit at its place, else the same. -/
theorem pixel_drawBit (bit : Bool) (r c : Nat) (acc : Screen × Bool) (r' c' : Nat) :
    (drawBit bit r c acc).1.pixel r' c' =
      (acc.1.pixel r' c' ^^ (bit && decide (r' % 32 = r % 32 ∧ c' % 64 = c % 64))) := by
  cases bit
  · simp [drawBit]
  · simp [drawBit, Screen.pixel_flip]

/-- The collision after one sprite bit: it was there, or a 1 bit met a set pixel. -/
theorem collision_drawBit (bit : Bool) (r c : Nat) (acc : Screen × Bool) :
    (drawBit bit r c acc).2 = (acc.2 || (bit && acc.1.pixel r c)) := by
  cases bit <;> simp [drawBit]

theorem drawRows_nil (r cx : Nat) (acc : Screen × Bool) : drawRows r cx [] acc = acc := rfl

theorem drawRows_cons (r cx : Nat) (b : Byte) (rest : List Byte) (acc : Screen × Bool) :
    drawRows r cx (b :: rest) acc = drawRows (r + 1) cx rest (drawRow b r cx acc) := rfl

end Sys2Proof.Machine
end

