-- ==== Sys2Proof/Laws/PerInstr.lean ====
section
/-!
SUPPORT. Statements for all instructions, made per instruction.

Family `RowPattern`: the encoded word of an instruction fits the row of spec/30_encoding.md R98 that the
instruction is numbered with: its bits under the row's mask are the row's match value.
-/

namespace Sys2Proof.Laws.RowPattern

open Sys2Proof

/-- The row of an instruction's number is in the table, and the encoded word fits its pattern. -/
def Statement (i : Instr) : Prop :=
  ∃ r ∈ opcodeTable, r.number = i.rowNumber ∧ encode i &&& r.mask = r.bits

theorem cls : Statement .cls :=
  ⟨⟨1, 0x00E0, 0xFFFF⟩, by decide, rfl, by decide⟩

theorem ret : Statement .ret :=
  ⟨⟨2, 0x00EE, 0xFFFF⟩, by decide, rfl, by decide⟩

theorem jp (nnn : Imm12) : Statement (.jp nnn) := by
  refine ⟨⟨3, wordNNN 0x1 0, wordNNN 0xF 0⟩, by decide, rfl, ?_⟩
  simp [encode, wordNNN_and]

theorem call (nnn : Imm12) : Statement (.call nnn) := by
  refine ⟨⟨4, wordNNN 0x2 0, wordNNN 0xF 0⟩, by decide, rfl, ?_⟩
  simp [encode, wordNNN_and]

theorem seImm (x : Nibble) (kk : Byte) : Statement (.seImm x kk) := by
  refine ⟨⟨5, wordXKK 0x3 0 0, wordXKK 0xF 0 0⟩, by decide, rfl, ?_⟩
  simp [encode, wordXKK_and]

theorem sneImm (x : Nibble) (kk : Byte) : Statement (.sneImm x kk) := by
  refine ⟨⟨6, wordXKK 0x4 0 0, wordXKK 0xF 0 0⟩, by decide, rfl, ?_⟩
  simp [encode, wordXKK_and]

theorem seReg (x y : Nibble) : Statement (.seReg x y) := by
  refine ⟨⟨7, wordXYN 0x5 0 0 0x0, wordXYN 0xF 0 0 0xF⟩, by decide, rfl, ?_⟩
  simp [encode, wordXYN_and]

theorem ldImm (x : Nibble) (kk : Byte) : Statement (.ldImm x kk) := by
  refine ⟨⟨8, wordXKK 0x6 0 0, wordXKK 0xF 0 0⟩, by decide, rfl, ?_⟩
  simp [encode, wordXKK_and]

theorem addImm (x : Nibble) (kk : Byte) : Statement (.addImm x kk) := by
  refine ⟨⟨9, wordXKK 0x7 0 0, wordXKK 0xF 0 0⟩, by decide, rfl, ?_⟩
  simp [encode, wordXKK_and]

theorem ldReg (x y : Nibble) : Statement (.ldReg x y) := by
  refine ⟨⟨10, wordXYN 0x8 0 0 0x0, wordXYN 0xF 0 0 0xF⟩, by decide, rfl, ?_⟩
  simp [encode, wordXYN_and]

theorem orReg (x y : Nibble) : Statement (.orReg x y) := by
  refine ⟨⟨11, wordXYN 0x8 0 0 0x1, wordXYN 0xF 0 0 0xF⟩, by decide, rfl, ?_⟩
  simp [encode, wordXYN_and]

theorem andReg (x y : Nibble) : Statement (.andReg x y) := by
  refine ⟨⟨12, wordXYN 0x8 0 0 0x2, wordXYN 0xF 0 0 0xF⟩, by decide, rfl, ?_⟩
  simp [encode, wordXYN_and]

theorem xorReg (x y : Nibble) : Statement (.xorReg x y) := by
  refine ⟨⟨13, wordXYN 0x8 0 0 0x3, wordXYN 0xF 0 0 0xF⟩, by decide, rfl, ?_⟩
  simp [encode, wordXYN_and]

theorem addReg (x y : Nibble) : Statement (.addReg x y) := by
  refine ⟨⟨14, wordXYN 0x8 0 0 0x4, wordXYN 0xF 0 0 0xF⟩, by decide, rfl, ?_⟩
  simp [encode, wordXYN_and]

theorem sub (x y : Nibble) : Statement (.sub x y) := by
  refine ⟨⟨15, wordXYN 0x8 0 0 0x5, wordXYN 0xF 0 0 0xF⟩, by decide, rfl, ?_⟩
  simp [encode, wordXYN_and]

theorem shr (x y : Nibble) : Statement (.shr x y) := by
  refine ⟨⟨16, wordXYN 0x8 0 0 0x6, wordXYN 0xF 0 0 0xF⟩, by decide, rfl, ?_⟩
  simp [encode, wordXYN_and]

theorem subn (x y : Nibble) : Statement (.subn x y) := by
  refine ⟨⟨17, wordXYN 0x8 0 0 0x7, wordXYN 0xF 0 0 0xF⟩, by decide, rfl, ?_⟩
  simp [encode, wordXYN_and]

theorem shl (x y : Nibble) : Statement (.shl x y) := by
  refine ⟨⟨18, wordXYN 0x8 0 0 0xE, wordXYN 0xF 0 0 0xF⟩, by decide, rfl, ?_⟩
  simp [encode, wordXYN_and]

theorem sneReg (x y : Nibble) : Statement (.sneReg x y) := by
  refine ⟨⟨19, wordXYN 0x9 0 0 0x0, wordXYN 0xF 0 0 0xF⟩, by decide, rfl, ?_⟩
  simp [encode, wordXYN_and]

theorem ldI (nnn : Imm12) : Statement (.ldI nnn) := by
  refine ⟨⟨20, wordNNN 0xA 0, wordNNN 0xF 0⟩, by decide, rfl, ?_⟩
  simp [encode, wordNNN_and]

theorem jpV0 (nnn : Imm12) : Statement (.jpV0 nnn) := by
  refine ⟨⟨21, wordNNN 0xB 0, wordNNN 0xF 0⟩, by decide, rfl, ?_⟩
  simp [encode, wordNNN_and]

theorem rnd (x : Nibble) (kk : Byte) : Statement (.rnd x kk) := by
  refine ⟨⟨22, wordXKK 0xC 0 0, wordXKK 0xF 0 0⟩, by decide, rfl, ?_⟩
  simp [encode, wordXKK_and]

theorem drw (x y n : Nibble) : Statement (.drw x y n) := by
  refine ⟨⟨23, wordXYN 0xD 0 0 0, wordXYN 0xF 0 0 0⟩, by decide, rfl, ?_⟩
  simp [encode, wordXYN_and]

theorem skp (x : Nibble) : Statement (.skp x) := by
  refine ⟨⟨24, wordXKK 0xE 0 0x9E, wordXKK 0xF 0 0xFF⟩, by decide, rfl, ?_⟩
  simp [encode, wordXKK_and]

theorem sknp (x : Nibble) : Statement (.sknp x) := by
  refine ⟨⟨25, wordXKK 0xE 0 0xA1, wordXKK 0xF 0 0xFF⟩, by decide, rfl, ?_⟩
  simp [encode, wordXKK_and]

theorem ldVxDt (x : Nibble) : Statement (.ldVxDt x) := by
  refine ⟨⟨26, wordXKK 0xF 0 0x07, wordXKK 0xF 0 0xFF⟩, by decide, rfl, ?_⟩
  simp [encode, wordXKK_and]

theorem ldVxK (x : Nibble) : Statement (.ldVxK x) := by
  refine ⟨⟨27, wordXKK 0xF 0 0x0A, wordXKK 0xF 0 0xFF⟩, by decide, rfl, ?_⟩
  simp [encode, wordXKK_and]

theorem ldDtVx (x : Nibble) : Statement (.ldDtVx x) := by
  refine ⟨⟨28, wordXKK 0xF 0 0x15, wordXKK 0xF 0 0xFF⟩, by decide, rfl, ?_⟩
  simp [encode, wordXKK_and]

theorem ldStVx (x : Nibble) : Statement (.ldStVx x) := by
  refine ⟨⟨29, wordXKK 0xF 0 0x18, wordXKK 0xF 0 0xFF⟩, by decide, rfl, ?_⟩
  simp [encode, wordXKK_and]

theorem addI (x : Nibble) : Statement (.addI x) := by
  refine ⟨⟨30, wordXKK 0xF 0 0x1E, wordXKK 0xF 0 0xFF⟩, by decide, rfl, ?_⟩
  simp [encode, wordXKK_and]

theorem ldF (x : Nibble) : Statement (.ldF x) := by
  refine ⟨⟨31, wordXKK 0xF 0 0x29, wordXKK 0xF 0 0xFF⟩, by decide, rfl, ?_⟩
  simp [encode, wordXKK_and]

theorem ldB (x : Nibble) : Statement (.ldB x) := by
  refine ⟨⟨32, wordXKK 0xF 0 0x33, wordXKK 0xF 0 0xFF⟩, by decide, rfl, ?_⟩
  simp [encode, wordXKK_and]

theorem store (x : Nibble) : Statement (.store x) := by
  refine ⟨⟨33, wordXKK 0xF 0 0x55, wordXKK 0xF 0 0xFF⟩, by decide, rfl, ?_⟩
  simp [encode, wordXKK_and]

theorem load (x : Nibble) : Statement (.load x) := by
  refine ⟨⟨34, wordXKK 0xF 0 0x65, wordXKK 0xF 0 0xFF⟩, by decide, rfl, ?_⟩
  simp [encode, wordXKK_and]

end Sys2Proof.Laws.RowPattern
end

