-- ==== Sys2Proof/Laws/Step.lean ====
section
/-!
SUPPORT. What a step is in each control state (R121), and what an instruction's step is when its fetch is in
range.
-/

namespace Sys2Proof.Machine

theorem step_of_halted (s : State) (h : s.halted = true) : step s = .next s := by
  simp [step, cycle, haltedStep, h]

theorem step_of_awaiting (s : State) (h : s.halted = false) (ha : s.awaiting = true) :
    step s = awaitingStep s := by
  simp [step, cycle, h, ha]

theorem step_of_running (s : State) (h : s.halted = false) (ha : s.awaiting = false) :
    step s = runningStep s := by
  simp [step, cycle, h, ha]

theorem runningStep_of_fetch (s : State) (w : Word) (h : s.fetch16 s.pc.toNat = some w) :
    runningStep s = execVariant (decode w) s.tickTimers := by
  simp [runningStep, h]

theorem runningStep_of_no_fetch (s : State) (h : s.fetch16 s.pc.toNat = none) :
    runningStep s = .next (s.tickTimers.recordFault (.pcOutOfRange s.pc)) := by
  simp [runningStep, h, raiseFault_eq]

/-- A step is one of four things: nothing (HALTED), the wait-gate (AWAITING), a fetch fault, or the decoded
variant run on the state after the countdown (RUNNING). -/
theorem step_cases (s : State) :
    (s.halted = true ∧ step s = .next s) ∨
    (s.halted = false ∧ s.awaiting = true ∧ step s = awaitingStep s) ∨
    (s.halted = false ∧ s.awaiting = false ∧ 4094 < s.pc.toNat ∧
      step s = .next (s.tickTimers.recordFault (.pcOutOfRange s.pc))) ∨
    (s.halted = false ∧ s.awaiting = false ∧ s.pc.toNat ≤ 4094 ∧ ∃ w,
      s.fetch16 s.pc.toNat = some w ∧ step s = execVariant (decode w) s.tickTimers) := by
  rcases Bool.eq_false_or_eq_true s.halted with h | h
  · exact .inl ⟨h, step_of_halted s h⟩
  rcases Bool.eq_false_or_eq_true s.awaiting with ha | ha
  · exact .inr (.inl ⟨h, ha, step_of_awaiting s h ha⟩)
  rcases Nat.lt_or_ge 4094 s.pc.toNat with hp | hp
  · exact .inr (.inr (.inl ⟨h, ha, hp,
      (step_of_running s h ha).trans (runningStep_of_no_fetch s (s.fetch16_of_gt _ hp))⟩))
  · have hf := s.fetch16_of_le _ hp
    exact .inr (.inr (.inr ⟨h, ha, hp, _, hf,
      (step_of_running s h ha).trans (runningStep_of_fetch s _ hf)⟩))

/-- The AWAITING step: the least down key is captured, or nothing happens (R123). -/
theorem awaitingStep_cases (s : State) :
    (∃ k, lowestKey s.keypad = some k ∧ k < 16 ∧
      awaitingStep s = .next (s.setV s.target (BitVec.ofNat 8 k)).endWait) ∨
    (lowestKey s.keypad = none ∧ awaitingStep s = .next s) := by
  unfold awaitingStep
  cases h : lowestKey s.keypad with
  | some k => exact .inl ⟨k, rfl, ((lowestKey_eq_some _ _).1 h).1, rfl⟩
  | none => exact .inr ⟨rfl, rfl⟩

/-! ### The outputs of a step (R213, R216) -/

/-- The fault a step reports is the one recorded in the halted state it leaves. -/
theorem stepOutput_of_step (s t : State) (h : step s = .next t) :
    stepOutput s = ⟨stepDiagnostic s, faultReport t⟩ := by
  have hc : cycle s = .next t := h
  simp [stepOutput, hc]

theorem stepDiagnostic_of_halted (s : State) (h : s.halted = true) : stepDiagnostic s = none := by
  simp [stepDiagnostic, h]

theorem stepDiagnostic_of_awaiting (s : State) (h : s.awaiting = true) :
    stepDiagnostic s = none := by
  simp [stepDiagnostic, h]

theorem stepDiagnostic_of_no_fetch (s : State) (h : s.fetch16 s.pc.toNat = none) :
    stepDiagnostic s = none := by
  simp [stepDiagnostic, h]

theorem stepDiagnostic_of_instr (s : State) (w : Word) (i : Instr)
    (hf : s.fetch16 s.pc.toNat = some w) (hd : decode w = .instr i) : stepDiagnostic s = none := by
  simp [stepDiagnostic, hf, hd]

theorem stepDiagnostic_of_unimplemented (s : State) (w u : Word) (h : s.halted = false)
    (ha : s.awaiting = false) (hf : s.fetch16 s.pc.toNat = some w)
    (hd : decode w = .unimplemented u) : stepDiagnostic s = some ⟨s.pc, u⟩ := by
  simp [stepDiagnostic, h, ha, hf, hd, unimplementedReport]

theorem faultReport_recordFault (s : State) (f : Fault) :
    faultReport (s.recordFault f) = some f := rfl

theorem faultReport_of_not_halted (s : State) (h : s.halted = false) : faultReport s = none := by
  simp [faultReport, h]

end Sys2Proof.Machine
end

