-- ==== Sys2Proof/Tests/Slice0.lean ====
section
/-!
SUPPORT. The model's own tests: the WellFormed smoke tests, a written-out word for every constructor, small
one-step tests whose expected results are the vectors of spec/95_test_vectors.md (named S<n> and V<n> in the
comments), and a witness for every obligation that has hypotheses.
-/

namespace Sys2Proof.Tests

open Sys2Proof Sys2Proof.Machine Sys2Proof.Safety

/-! ### Helpers -/

/-- The state an answer holds; only ever used where `step` and `exec` answer a next state. -/
def got : Result → State
  | .next t => t
  | .fault _ => State.reset
  | .refused _ => State.reset

/-- Whether an answer is a next state whose picture is `p`. -/
def gives {α : Type} [DecidableEq α] (r : Result) (f : State → α) (p : α) : Bool :=
  match r with
  | .next t => decide (f t = p)
  | .fault _ => false
  | .refused _ => false

/-- The reset state with some registers set. -/
def regs (l : List (Nibble × Byte)) : State := l.foldl (fun s p => s.setV p.1 p.2) State.reset

/-- One step at a word placed at `pc`. -/
def run (w : Word) (s : State) : Result := step (placeWord s w)

/-- A state with bytes put at an address. -/
def poke (s : State) (a : Nat) (bytes : List Byte) : State := s.setMem (s.mem.writeBytes a bytes)

/-- A keypad with the listed keys down. -/
def keys (l : List Nat) : Keypad := Vector.ofFn fun k : Fin 16 => l.contains k.val

/-- A screen with the listed pixels set. -/
def pixels (l : List (Nat × Nat)) : Screen := l.foldl (fun g p => g.flip p.1 p.2) Screen.clear

/-- The columns of a row that are set. -/
def columns (g : Screen) (r : Nat) : List Nat := (List.range 64).filter fun c => g.pixel r c

/-- The state that the first `k` steps from `s` leave. -/
def after (s : State) : Nat → State
  | 0 => s
  | k + 1 => got (step (after s k))

/-- The reset state with a word at its `pc`. -/
def placed (w : Word) : State := placeWord State.reset w

/-! ### WellFormed: each check refuses an ill-formed term -/

theorem test_wf_refuses_family_0 : (Variant.unimplemented 0x00E0).wellFormed = false ∧
    (Variant.unimplemented 0x00EE).wellFormed = false := by decide

theorem test_wf_refuses_family_5 : (Variant.unimplemented 0x5120).wellFormed = false := by decide

theorem test_wf_refuses_family_8 : (Variant.unimplemented 0x8127).wellFormed = false ∧
    (Variant.unimplemented 0x812E).wellFormed = false := by decide

theorem test_wf_refuses_family_9 : (Variant.unimplemented 0x9120).wellFormed = false := by decide

theorem test_wf_refuses_family_e : (Variant.unimplemented 0xE39E).wellFormed = false ∧
    (Variant.unimplemented 0xE3A1).wellFormed = false := by decide

theorem test_wf_refuses_family_f : (Variant.unimplemented 0xF307).wellFormed = false ∧
    (Variant.unimplemented 0xF365).wellFormed = false := by decide

theorem test_wf_refuses_full_families : (Variant.unimplemented 0x1234).wellFormed = false ∧
    (Variant.unimplemented 0xD125).wellFormed = false := by decide

/-- R99: words of each partial family that are listed. -/
theorem test_wf_accepts_listed : (Variant.unimplemented 0x0123).wellFormed = true ∧
    (Variant.unimplemented 0x5121).wellFormed = true ∧
    (Variant.unimplemented 0x8128).wellFormed = true ∧
    (Variant.unimplemented 0x912F).wellFormed = true ∧
    (Variant.unimplemented 0xE09F).wellFormed = true ∧
    (Variant.unimplemented 0xFF75).wellFormed = true := by decide

/-! ### Decode: a word written out from the pattern of R98, for every constructor -/

theorem test_decode_cls : decode 0b0000000011100000 = .instr .cls := by decide
theorem test_decode_ret : decode 0b0000000011101110 = .instr .ret := by decide
theorem test_decode_jp : decode 0b0001101010111100 = .instr (.jp 0xABC) := by decide
theorem test_decode_call : decode 0b0010101010111100 = .instr (.call 0xABC) := by decide
theorem test_decode_se_imm : decode 0b0011001101000010 = .instr (.seImm 3 0x42) := by decide
theorem test_decode_sne_imm : decode 0b0100001101000010 = .instr (.sneImm 3 0x42) := by decide
theorem test_decode_se_reg : decode 0b0101000100100000 = .instr (.seReg 1 2) := by decide
theorem test_decode_ld_imm : decode 0b0110101011111111 = .instr (.ldImm 0xA 0xFF) := by decide
theorem test_decode_add_imm : decode 0b0111111100000010 = .instr (.addImm 0xF 0x02) := by decide
theorem test_decode_ld_reg : decode 0b1000101010110000 = .instr (.ldReg 0xA 0xB) := by decide
theorem test_decode_or : decode 0b1000101010110001 = .instr (.orReg 0xA 0xB) := by decide
theorem test_decode_and : decode 0b1000101010110010 = .instr (.andReg 0xA 0xB) := by decide
theorem test_decode_xor : decode 0b1000101010110011 = .instr (.xorReg 0xA 0xB) := by decide
theorem test_decode_add : decode 0b1000101010110100 = .instr (.addReg 0xA 0xB) := by decide
theorem test_decode_sub : decode 0b1000101010110101 = .instr (.sub 0xA 0xB) := by decide
theorem test_decode_shr : decode 0b1000101010110110 = .instr (.shr 0xA 0xB) := by decide
theorem test_decode_subn : decode 0b1000101010110111 = .instr (.subn 0xA 0xB) := by decide
theorem test_decode_shl : decode 0b1000101010111110 = .instr (.shl 0xA 0xB) := by decide
theorem test_decode_sne_reg : decode 0b1001000100100000 = .instr (.sneReg 1 2) := by decide
theorem test_decode_ld_i : decode 0b1010000100100011 = .instr (.ldI 0x123) := by decide
theorem test_decode_jp_v0 : decode 0b1011001011111110 = .instr (.jpV0 0x2FE) := by decide
theorem test_decode_rnd : decode 0b1100001111110000 = .instr (.rnd 3 0xF0) := by decide
theorem test_decode_drw : decode 0b1101000100100101 = .instr (.drw 1 2 5) := by decide
theorem test_decode_skp : decode 0b1110001110011110 = .instr (.skp 3) := by decide
theorem test_decode_sknp : decode 0b1110001110100001 = .instr (.sknp 3) := by decide
theorem test_decode_ld_vx_dt : decode 0b1111001000000111 = .instr (.ldVxDt 2) := by decide
theorem test_decode_ld_vx_k : decode 0b1111010100001010 = .instr (.ldVxK 5) := by decide
theorem test_decode_ld_dt_vx : decode 0b1111001100010101 = .instr (.ldDtVx 3) := by decide
theorem test_decode_ld_st_vx : decode 0b1111001100011000 = .instr (.ldStVx 3) := by decide
theorem test_decode_add_i : decode 0b1111111100011110 = .instr (.addI 0xF) := by decide
theorem test_decode_ld_f : decode 0b1111001100101001 = .instr (.ldF 3) := by decide
theorem test_decode_ld_b : decode 0b1111001100110011 = .instr (.ldB 3) := by decide
theorem test_decode_store : decode 0b1111000101010101 = .instr (.store 1) := by decide
theorem test_decode_load : decode 0b1111111101100101 = .instr (.load 0xF) := by decide

/-- R99: `0nnn`, `5xy1`, a free `n` of family 8, a neighbour of the key skip, an extension word. -/
theorem test_decode_unimplemented : decode 0x0000 = .unimplemented 0x0000 ∧
    decode 0x5121 = .unimplemented 0x5121 ∧ decode 0x8008 = .unimplemented 0x8008 ∧
    decode 0xE09F = .unimplemented 0xE09F ∧ decode 0xFF75 = .unimplemented 0xFF75 := by decide

/-- R98: 34 rows, no two of which a word can match. -/
theorem test_rows_disjoint : opcodeTable.length = 34 ∧
    opcodeTable.Pairwise fun r q => r.bits &&& q.mask ≠ q.bits &&& r.mask := by decide

/-- R61: the bytes of a stream are read high byte first; one byte is no instruction. -/
theorem test_decode_bytes : decodeBytes [0x80, 0x14, 0x60] = some (.instr (.addReg 0 1), [0x60]) ∧
    decodeBytes [0x80] = none := by decide

/-- The host's numbering: `8014` as one 16-bit word. -/
theorem test_decode_table_word : decodeTableWord 16 0x8014 = some (.addReg 0 1) ∧
    decodeTableWord 16 0x0000 = none := by decide

theorem test_with_fetch_word :
    gives (step (State.reset.withFetchWord 16 0x6AFF)) (fun t => (t.getV 0xA, t.pc)) (0xFF, 0x202)
      = true := by decide

/-! ### Control transfer (95 section 2.1) -/

/-- V1. -/
theorem test_jp : gives (run 0x1ABC State.reset) (·.pc) 0x0ABC = true := by decide

/-- V2. -/
theorem test_call : gives (run 0x2ABC State.reset) (fun t => (t.stack[0], t.sp, t.pc))
    (0x0202, 1, 0x0ABC) = true := by decide

/-- V3. -/
theorem test_call_full : gives (run 0x2ABC { State.reset with sp := 16 })
    (fun t => (t.halted, t.fault, t.pc, t.sp))
    (true, some (.stackOverflow 0x200 0x2ABC), 0x200, 16) = true := by decide

/-- V5. -/
theorem test_ret : gives (run 0x00EE { State.reset with
      sp := 2, stack := (State.reset.stack.set 1 0x0456).set 0 0x0222 })
    (fun t => (t.pc, t.sp, t.stack[1])) (0x0456, 1, 0x0456) = true := by decide

/-- V4 and V23: the fault, after the countdown. -/
theorem test_ret_empty : gives (run 0x00EE { State.reset with dt := 3 })
    (fun t => (t.halted, t.fault, t.pc, t.dt))
    (true, some (.stackUnderflow 0x200 0x00EE), 0x200, 2) = true := by decide

/-- V6 and V7. -/
theorem test_se_imm : gives (run 0x3342 (regs [(3, 0x42)])) (·.pc) 0x204 = true ∧
    gives (run 0x3343 (regs [(3, 0x42)])) (·.pc) 0x202 = true := by decide

/-- V8 and V9. -/
theorem test_sne_imm : gives (run 0x4342 (regs [(3, 0x42)])) (·.pc) 0x202 = true ∧
    gives (run 0x4343 (regs [(3, 0x42)])) (·.pc) 0x204 = true := by decide

/-- V10 and V11. -/
theorem test_se_reg : gives (run 0x5120 (regs [(1, 9), (2, 9)])) (·.pc) 0x204 = true ∧
    gives (run 0x5120 (regs [(1, 9), (2, 8)])) (·.pc) 0x202 = true := by decide

/-- V13 and V14. -/
theorem test_sne_reg : gives (run 0x9120 (regs [(1, 9), (2, 8)])) (·.pc) 0x204 = true ∧
    gives (run 0x9110 (regs [(1, 9)])) (·.pc) 0x202 = true := by decide

/-- V15 and V16. -/
theorem test_jp_v0 : gives (run 0xB2FE (regs [(0, 0xFF)])) (·.pc) 0x03FD = true ∧
    gives (run 0xBFFF (regs [(0, 0xFF)])) (·.pc) 0x10FE = true := by decide

/-- V18. -/
theorem test_fetch_fault : gives (step { State.reset with pc := 0xFFF })
    (fun t => (t.halted, t.fault, t.pc)) (true, some (.pcOutOfRange 0xFFF), 0xFFF) = true := by decide

/-- V17: a skip at the last word leaves `pc` at 0x1002. -/
theorem test_skip_at_the_end : gives (run 0x3000 { State.reset with pc := 0xFFE }) (·.pc) 0x1002
    = true := by decide

/-- V20 and V22: a no-op whose step counts the timers. -/
theorem test_unimplemented : gives (run 0x0123 { State.reset with dt := 3, st := 1 })
    (fun t => (t.pc, t.dt, t.st, t.halted)) (0x202, 2, 0, false) = true := by decide

/-- V12: its report. -/
theorem test_unimplemented_report :
    stepOutput (placeWord State.reset 0x5121) = ⟨some ⟨0x200, 0x5121⟩, none⟩ := by decide

/-- V4: the step that faults reports the fault to the host (R213), and no diagnostic. -/
theorem test_fault_report : stepOutput (placed 0x00EE) =
    ⟨none, some (.stackUnderflow 0x200 0x00EE)⟩ := by decide

/-! ### ALU (95 section 2.2) -/

/-- V30. -/
theorem test_ld_imm : gives (run 0x6AFF State.reset) (·.getV 0xA) 0xFF = true := by decide

/-- V31 and V32. -/
theorem test_add_imm : gives (run 0x7001 (regs [(0, 0xFF)])) (fun t => (t.getV 0, t.getV vf)) (0, 0)
    = true ∧ gives (run 0x7F02 (regs [(vf, 1)])) (·.getV vf) 3 = true := by decide

/-- V33. -/
theorem test_ld_reg : gives (run 0x8010 (regs [(1, 0x42)])) (·.getV 0) 0x42 = true := by decide

/-- V34. -/
theorem test_or : gives (run 0x8011 (regs [(0, 0xA5), (1, 0x5A), (vf, 7)]))
    (fun t => (t.getV 0, t.getV vf)) (0xFF, 7) = true := by decide

/-- V35. -/
theorem test_and : gives (run 0x8012 (regs [(0, 0xA5), (1, 0x5A), (vf, 7)]))
    (fun t => (t.getV 0, t.getV vf)) (0x00, 7) = true := by decide

/-- V36 and V37. -/
theorem test_xor : gives (run 0x8013 (regs [(0, 0xA5), (1, 0x5A), (vf, 7)]))
    (fun t => (t.getV 0, t.getV vf)) (0xFF, 7) = true ∧
    gives (run 0x8003 (regs [(0, 0xA5)])) (·.getV 0) 0 = true := by decide

/-- S2 and V39. -/
theorem test_add : gives (run 0x8014 (regs [(0, 0xFF), (1, 0xFF)]))
    (fun t => (t.getV 0, t.getV vf)) (0xFE, 1) = true ∧
    gives (run 0x8014 (regs [(0, 0xFF), (vf, 1)])) (fun t => (t.getV 0, t.getV vf)) (0xFF, 0)
      = true := by decide

/-- V40 and V41: VF as the destination, and as a source. -/
theorem test_add_vf : gives (run 0x8F14 (regs [(vf, 0xF0), (1, 0x20)])) (·.getV vf) 1 = true ∧
    gives (run 0x80F4 (regs [(0, 0xFF), (vf, 1)])) (fun t => (t.getV 0, t.getV vf)) (0, 1)
      = true := by decide

/-- S3 and V44. -/
theorem test_sub : gives (run 0x8015 (regs [(0, 0x0F), (1, 0x01)]))
    (fun t => (t.getV 0, t.getV vf)) (0x0E, 1) = true ∧
    gives (run 0x8015 (regs [(0, 1), (1, 2)])) (fun t => (t.getV 0, t.getV vf)) (0xFF, 0)
      = true := by decide

/-- V43: equal operands give flag 0. -/
theorem test_sub_equal : gives (run 0x8015 (regs [(0, 5), (1, 5), (vf, 1)]))
    (fun t => (t.getV 0, t.getV vf)) (0, 0) = true := by decide

/-- V46 and V47. -/
theorem test_subn : gives (run 0x8017 (regs [(0, 1), (1, 2)]))
    (fun t => (t.getV 0, t.getV vf)) (1, 1) = true ∧
    gives (run 0x8017 (regs [(0, 2), (1, 1)])) (fun t => (t.getV 0, t.getV vf)) (0xFF, 0)
      = true := by decide

/-- S4 and V50: `y` is ignored. -/
theorem test_shr : gives (run 0x8006 (regs [(0, 0x05)])) (fun t => (t.getV 0, t.getV vf)) (0x02, 1)
    = true ∧ gives (run 0x8016 (regs [(0, 0x80), (1, 0xFF), (vf, 1)]))
      (fun t => (t.getV 0, t.getV vf, t.getV 1)) (0x40, 0, 0xFF) = true := by decide

/-- V51: with VF as the operand the flag wins. -/
theorem test_shr_vf : gives (run 0x8F06 (regs [(vf, 0x02)])) (·.getV vf) 0 = true := by decide

/-- V53 and V54. -/
theorem test_shl : gives (run 0x800E (regs [(0, 0x7F), (vf, 1)]))
    (fun t => (t.getV 0, t.getV vf)) (0xFE, 0) = true ∧
    gives (run 0x801E (regs [(0, 0xFF)])) (fun t => (t.getV 0, t.getV vf)) (0xFE, 1)
      = true := by decide

/-- V55: a mask of 0 gives 0 whatever the random byte is. -/
theorem test_rnd : ∃ t, exec (.rnd 0 0x00) State.reset = .next t ∧ t.getV 0 = 0 ∧ t.pc = 0x202 :=
  ⟨_, rfl, by simp, rfl⟩

/-! ### Index and memory (95 section 2.3) -/

/-- V60. -/
theorem test_ld_i : gives (run 0xA123 { State.reset with i := 0xFFFF }) (·.i) 0x0123 = true := by
  decide

/-- V61 and V64. -/
theorem test_add_i : gives (run 0xF01E { regs [(0, 1), (vf, 1)] with i := 0x0FFF })
    (fun t => (t.i, t.getV vf)) (0x1000, 0) = true ∧
    gives (run 0xF01E { regs [(0, 0xFF)] with i := 0xFF01 }) (fun t => (t.i, t.getV vf)) (0, 1)
      = true := by decide

/-- V68 and V69. -/
theorem test_ld_f : gives (run 0xF029 (regs [(0, 0x10)])) (·.i) 80 = true ∧
    gives (run 0xF029 (regs [(0, 0xFF)])) (·.i) 0x04FB = true := by decide

/-- V74. -/
theorem test_ld_b : gives (run 0xF033 { regs [(0, 255)] with i := 4093 })
    (fun t => (t.memRead 4093, t.memRead 4094, t.memRead 4095)) (some 2, some 5, some 5)
      = true := by decide

/-- V75. -/
theorem test_ld_b_outside : gives (run 0xF033 { regs [(0, 255)] with i := 4094 })
    (fun t => (t.fault, t.memRead 4094, t.pc))
    (some (.memIndexOutOfRange 0x200 0xF033 4094 3), some 0, 0x200) = true := by decide

/-- V80. -/
theorem test_store : gives (run 0xF155 { regs [(0, 1), (1, 2), (2, 3)] with i := 0x300 })
    (fun t => (t.memRead 0x300, t.memRead 0x301, t.memRead 0x302, t.i))
    (some 1, some 2, some 0, 0x300) = true := by decide

/-- V77. -/
theorem test_store_outside : gives (run 0xFF55 { State.reset with i := 4081 })
    (·.fault) (some (.memIndexOutOfRange 0x200 0xFF55 4081 16)) = true := by decide

/-- V81: the instruction reads its own bytes. -/
theorem test_load : gives (run 0xF165 { regs [(2, 7)] with i := 0x200 })
    (fun t => (t.getV 0, t.getV 1, t.getV 2)) (0xF1, 0x65, 7) = true := by decide

/-- V83. -/
theorem test_load_outside : gives (run 0xF065 { regs [(0, 7)] with i := 0xFFFF })
    (fun t => (t.fault, t.getV 0)) (some (.memIndexOutOfRange 0x200 0xF065 0xFFFF 1), 7)
      = true := by decide

/-! ### Display (95 section 2.4) -/

/-- V85. -/
theorem test_cls : gives (run 0x00E0 { regs [(vf, 1)] with screen := pixels [(5, 5), (31, 63)] })
    (fun t => (t.screen, t.getV vf)) (Screen.clear, 1) = true := by decide

/-- V88, and S6 as C3 corrects it. -/
theorem test_drw_wrap : gives (run 0xD011 (poke { regs [(0, 3), (1, 2)] with i := 0x300 } 0x300 [0x01]))
    (fun t => (columns t.screen 2, t.getV vf)) ([10], 0) = true ∧
    gives (run 0xD011 (poke { regs [(0, 60)] with i := 0x300 } 0x300 [0xFF]))
    (fun t => (columns t.screen 0, t.getV vf)) ([0, 1, 2, 3, 60, 61, 62, 63], 0) = true := by decide

/-- S5: collision. -/
theorem test_drw_collision : gives (run 0xD011
      (poke { State.reset with i := 0x300, screen := pixels [(0, 0)] } 0x300 [0xFF]))
    (fun t => (columns t.screen 0, t.getV vf)) ([1, 2, 3, 4, 5, 6, 7], 1) = true := by decide

/-- V92. -/
theorem test_drw_outside : gives (run 0xD012 { regs [(vf, 1)] with i := 4095 })
    (fun t => (t.fault, t.getV vf, t.screen))
    (some (.memIndexOutOfRange 0x200 0xD012 4095 2), 1, Screen.clear) = true := by decide

/-- V90: no sprite byte is no access, and VF becomes 0. -/
theorem test_drw_none : gives (run 0xD010 { regs [(vf, 1)] with i := 0xFFFF })
    (fun t => (t.halted, t.getV vf, t.screen)) (false, 0, Screen.clear) = true := by decide

/-! ### Keypad, timers and the wait-gate (95 section 2.5) -/

/-- V100 and V101. -/
theorem test_skp : gives (run 0xE09E { regs [(0, 0x0F)] with keypad := keys [15] }) (·.pc) 0x204
    = true ∧ gives (run 0xE09E (regs [(0, 0x0F)])) (·.pc) 0x202 = true := by decide

/-- V103. -/
theorem test_skp_outside : gives (run 0xE09E (regs [(0, 0x10)])) (·.fault)
    (some (.keyIndexOutOfRange 0x200 0xE09E 0x10)) = true := by decide

/-- V102 and V104. -/
theorem test_sknp : gives (run 0xE0A1 (regs [(0, 0x0F)])) (·.pc) 0x204 = true ∧
    gives (run 0xE0A1 (regs [(0, 0xFF)])) (·.fault)
      (some (.keyIndexOutOfRange 0x200 0xE0A1 0xFF)) = true := by decide

/-- V106 and V107. -/
theorem test_ld_vx_dt : gives (run 0xF207 { regs [(2, 9)] with dt := 1 })
    (fun t => (t.dt, t.getV 2)) (0, 0) = true ∧
    gives (run 0xF207 (regs [(2, 9)])) (fun t => (t.dt, t.getV 2)) (0, 0) = true := by decide

/-- V108. -/
theorem test_ld_dt_vx : gives (run 0xF015 { regs [(0, 0xFF)] with dt := 7 }) (·.dt) 0xFF
    = true := by decide

/-- V109, its first step. -/
theorem test_ld_st_vx : gives (run 0xF018 (regs [(0, 2)])) (fun t => (t.st, tone t)) (2, true)
    = true := by decide

/-- V110. -/
theorem test_ld_vx_k : gives (run 0xF50A { regs [(5, 0xEE)] with keypad := keys [4] })
    (fun t => (t.pc, t.awaiting, t.target, t.getV 5)) (0x202, true, 5, 0xEE) = true := by decide

/-- V63. -/
theorem test_wait_captures : gives (step { regs [(5, 0xEE)] with
      keypad := keys [4], awaiting := true, target := 5, pc := 0x202 })
    (fun t => (t.getV 5, t.awaiting, t.pc)) (4, false, 0x202) = true := by decide

/-- V111. -/
theorem test_wait_waits : gives (step { State.reset with
      awaiting := true, target := 5, dt := 9, pc := 0x202 })
    (fun t => (t.dt, t.pc, t.awaiting)) (9, 0x202, true) = true := by decide

/-- V112. -/
theorem test_wait_least_key : gives (step { regs [(0, 0xEE)] with
      keypad := keys [0, 9], awaiting := true }) (·.getV 0) 0 = true := by decide

/-- V115. -/
theorem test_halted : gives (step { State.reset with
      halted := true, fault := some (.stackUnderflow 0x200 0x00EE), dt := 5 })
    (fun t => (t.dt, t.pc, t.halted)) (5, 0x200, true) = true := by decide

/-! ### The host's operations, and memory's form -/

/-- R42, R68, R245: the launch state of the image of P1; the font at 0, the image at 0x200. -/
theorem test_launch : (launch [0x60, 0x0A, 0x61]).memRead 0 = some 0xF0 ∧
    (launch [0x60, 0x0A, 0x61]).memRead 0x202 = some 0x61 ∧
    (launch [0x60, 0x0A, 0x61]).memRead 0x203 = some 0 := by decide

/-- V116. -/
theorem test_set_keypad : (State.reset.setKeypad (keys [0, 15])).keypad.toList =
    [true, false, false, false, false, false, false, false, false, false, false, false, false, false,
      false, true] := by decide

/-- Writing back what an unlisted address reads as removes the entry; writes in any order give one form. -/
theorem test_memory_canonical : ((Memory.write [] 5 7).write 5 (Memory.unlisted 5)) = [] ∧
    ((Memory.write [] 9 7).write 5 8) = ((Memory.write [] 5 8).write 9 7) ∧
    Memory.wf [(5, 7), (5, 8)] = false ∧ Memory.wf [(4096, 1)] = false ∧
    Memory.wf [(100, 0)] = false := by decide

/-! ### Witnesses: for each obligation with hypotheses, states and operands that meet them together -/

theorem witness_DecoderAgreesWithOpcodeMap : (⟨14, 0x8004, 0xF00F⟩ : OpRow) ∈ opcodeTable ∧
    (0x8014 : Word) &&& 0xF00F = 0x8004 ∧ decode 0x8014 = .instr (.addReg 0 1) ∧
    (Instr.addReg 0 1).rowNumber = 14 := by decide

theorem witness_UnimplementedWordsAreTheListedOnes : isUnimplementedWord 0x0000 = true ∧
    isUnimplementedWord 0x00E0 = false := by decide

/-- At the last address a word can stand. -/
theorem witness_StepRunsTheDecodedInstruction :
    let s := placeWord { State.reset with pc := 0xFFE } 0x8014
    Running s ∧ s.pc.toNat ≤ 4094 ∧ (Instr.addReg 0 1).wellFormed = true ∧
      decodeBytes [s.mem.read s.pc.toNat, s.mem.read (s.pc.toNat + 1)] =
        some (.instr (.addReg 0 1), []) := by decide

theorem witness_PlacedWordIsRunNext : decodeTableWord 16 0xFFFF = none ∧
    decodeTableWord 16 0xFF65 = some (.load 0xF) := by decide

/-- Both clauses; the second is not met by a step that decodes an instruction, nor by one that awaits a key. -/
theorem witness_UnimplementedWordIsReportedNoOp :
    (Running State.reset ∧ State.reset.fetch16 State.reset.pc.toNat = some 0x0000 ∧
      isUnimplementedWord 0x0000 = true) ∧
    (stepOutput State.reset).diagnostic = some ⟨0x200, 0x0000⟩ ∧
    (stepOutput (placed 0x00E0)).diagnostic = none ∧
    (stepOutput { State.reset with awaiting := true }).diagnostic = none := by decide

theorem witness_FetchIsBigEndianUpTo4094 :
    State.reset.fetch16 1 = some 0x9090 ∧ State.reset.fetch16 4094 = some 0x0000 ∧
      State.reset.fetch16 4095 = none := by decide

theorem witness_PcOutOfRangeHalts :
    Running { State.reset with pc := 4095 } ∧
      4094 < ({ State.reset with pc := 4095 } : State).pc.toNat := by decide

theorem witness_HaltedStepChangesNothing : ({ State.reset with halted := true } : State).halted = true :=
  rfl

/-- Both clauses: only the last key down, and no key down. -/
theorem witness_AwaitingStepCapturesTheLeastKey :
    (Awaiting { State.reset with awaiting := true, keypad := keys [15] } ∧
      (keys [15])[(15 : Fin 16)] = true ∧ ∀ j : Fin 16, j < 15 → (keys [15])[j] = false) ∧
    (Awaiting { State.reset with awaiting := true } ∧ ∀ k : Fin 16, State.reset.keypad[k] = false) := by
  decide

/-- The clauses: a step that writes a timer, one that writes neither, and one that is not RUNNING. -/
theorem witness_TimersCountOncePerRunningStep :
    (Running (placed 0xF315) ∧ fetched (placed 0xF315) = some (.instr (.ldDtVx 3)) ∧
      step (placed 0xF315) = .next (got (step (placed 0xF315)))) ∧
    (Running (placed 0xF318) ∧ fetched (placed 0xF318) = some (.instr (.ldStVx 3)) ∧
      step (placed 0xF318) = .next (got (step (placed 0xF318)))) ∧
    (Running State.reset ∧ fetched State.reset = some (.unimplemented 0) ∧
      step State.reset = .next (got (step State.reset))) ∧
    (¬Running { State.reset with halted := true } ∧
      step { State.reset with halted := true } = .next { State.reset with halted := true }) := by
  refine ⟨⟨by decide, by decide, rfl⟩, ⟨by decide, by decide, rfl⟩, ⟨by decide, by decide, rfl⟩,
    by decide, rfl⟩

/-- A step that stores, from a state that meets the invariant. -/
theorem witness_EveryStepKeepsTheInvariant : Inv (placed 0xF055) ∧
    step (placed 0xF055) = .next (got (step (placed 0xF055))) := ⟨by decide, rfl⟩

theorem witness_HostRunsKeepTheInvariant : Inv State.reset := by decide

/-- A halted state, with each operation that is no reset; and the last byte of an image and the address past it. -/
theorem witness_ResetState : ({ State.reset with halted := true } : State).halted = true ∧
    HostOp.load [] ≠ .reset ∧ HostOp.setKeypad (keys []) ≠ .reset ∧ HostOp.step ≠ .reset ∧
    (launch (List.replicate 2 0x60)).memRead 0x201 = some 0x60 ∧
    (launch (List.replicate 2 0x60)).memRead 0x202 = some 0 := by decide

/-- Both clauses, at `sp = 0` and `sp = 1`. -/
theorem witness_FaultsAreThoseOfTheTable :
    faultOf .ret State.reset = some (.stackUnderflow 0x200 0x00EE) ∧
      faultOf .ret { State.reset with sp := 1 } = none := by decide

/-- The two ways to halt. -/
theorem witness_FaultingStepIsPrecise :
    (step { State.reset with pc := 4095 } = .next (got (step { State.reset with pc := 4095 })) ∧
      State.reset.halted = false ∧ (got (step { State.reset with pc := 4095 })).halted = true) ∧
    (step (placed 0x00EE) = .next (got (step (placed 0x00EE))) ∧ (placed 0x00EE).halted = false ∧
      (got (step (placed 0x00EE))).halted = true) :=
  ⟨⟨rfl, rfl, by decide⟩, rfl, rfl, by decide⟩

/-- Every clause; for the storing ones the addresses next to the stored bytes (`I = 0x300`, 3 and 16 bytes). -/
theorem witness_InstructionsChangeOnlyTheirParts :
    let s : State := { State.reset with i := 0x300 }
    exec (.ldImm 0 1) s = .next (got (exec (.ldImm 0 1) s)) ∧
      exec (.ldB 0) s = .next (got (exec (.ldB 0) s)) ∧
      exec (.store 0xF) s = .next (got (exec (.store 0xF) s)) ∧
      0x2FF < s.i.toNat ∧ s.i.toNat + 3 ≤ 0x303 ∧
      s.i.toNat + ((0xF : Nibble).toNat + 1) ≤ 0x310 :=
  ⟨rfl, rfl, rfl, by decide, by decide, by decide⟩

theorem witness_RegistersWrittenOnlyByTheirWriters :
    exec (.load 3) State.reset = .next (got (exec (.load 3) State.reset)) ∧
      mayWriteV (.load 3) 3 = true ∧ mayWriteV (.load 3) 4 = false := ⟨rfl, by decide, by decide⟩

/-- Both clauses at their boundary: address 4095 stores, address 4096 does not. -/
theorem witness_StoredByteIsReadBack :
    ((State.reset.storeBytes 4095 [7]).map fun t => t.memRead 4095) = some (some 7) ∧
      State.reset.storeBytes 4096 [7] = none ∧ State.reset.memRead 4096 = none ∧
      State.reset.mem.wf = true := by decide

/-- Both clauses, at `sp = 1` and `sp = 0`. -/
theorem witness_RetPopsAndJumps : ({ State.reset with sp := 1 } : State).sp.val ≠ 0 ∧
    State.reset.sp.val = 0 := by decide

/-- Both clauses, at `sp = 15` and `sp = 16`. -/
theorem witness_CallPushesAndJumps : ({ State.reset with sp := 15 } : State).sp.val < 16 ∧
    ({ State.reset with sp := 16 } : State).sp.val = 16 := by decide

theorem witness_SkipOnRegisters : (1 : Nibble) ≠ 0 ∧ (0xF : Nibble) ≠ 0 := by decide

theorem witness_RetUndoesCall : ({ State.reset with sp := 15 } : State).sp.val < 16 ∧
    exec (.call 0xABC) { State.reset with sp := 15 } =
      .next (got (exec (.call 0xABC) { State.reset with sp := 15 })) := ⟨by decide, rfl⟩

/-- The register conditions: a destination that is not VF and one that is, and a register that is neither. -/
theorem witness_AddSetsCarry : (0xE : Nibble) ≠ vf ∧ ((0xF : Nibble) = vf) ∧
    (0 : Nibble) ≠ 0xE ∧ (0 : Nibble) ≠ vf := by decide

theorem witness_AddImmediateSetsNoFlag : (0 : Nibble) ≠ 0xF := by decide

theorem witness_BitwiseInstructions : (7 : Nat) < 8 ∧ (0 : Nibble) ≠ 0xF := by decide

theorem witness_SubtractSetsStrictFlag : (0xE : Nibble) ≠ vf ∧ (0 : Nibble) ≠ 0xE ∧
    (0 : Nibble) ≠ vf := by decide

theorem witness_SubtractFlagIsZeroAtEquality : (regs [(0, 0xFF), (1, 0xFF)]).getV 0 =
    (regs [(0, 0xFF), (1, 0xFF)]).getV 1 := by decide

theorem witness_ShiftsByOne : (0xE : Nibble) ≠ vf ∧ (0 : Nibble) ≠ 0xE ∧ (0 : Nibble) ≠ vf := by
  decide

theorem witness_RandomByteIsMasked : (0xFF : Byte) = 0xFF ∧ (0xFE : Byte) ≠ 0xFF := by decide

theorem witness_AddIndexSetsCarry : (0xE : Nibble) ≠ vf := by decide

/-- Both clauses, at `I = 4093` and `I = 4094`. -/
theorem witness_BcdStoresThreeDigits :
    ({ State.reset with i := 4093 } : State).i.toNat ≤ 4093 ∧
      4093 < ({ State.reset with i := 4094 } : State).i.toNat := by decide

/-- Both clauses, at `I + x = 4095` and `I + x = 4096`, and a register inside the block. -/
theorem witness_BlockStoreWritesV0ToVx :
    ({ State.reset with i := 4080 } : State).i.toNat + (0xF : Nibble).toNat ≤ 4095 ∧
      4095 < ({ State.reset with i := 4081 } : State).i.toNat + (0xF : Nibble).toNat ∧
      (0xF : Nibble).toNat ≤ (0xF : Nibble).toNat := by decide

/-- Both clauses, and a register inside and one outside the block. -/
theorem witness_BlockLoadReadsV0ToVx :
    ({ State.reset with i := 4092 } : State).i.toNat + (3 : Nibble).toNat ≤ 4095 ∧
      4095 < ({ State.reset with i := 4093 } : State).i.toNat + (3 : Nibble).toNat ∧
      (3 : Nibble).toNat ≤ (3 : Nibble).toNat ∧ (3 : Nibble).toNat < (4 : Nibble).toNat := by decide

theorem witness_BlockLoadReadsBackBlockStore :
    ({ State.reset with i := 4080 } : State).i.toNat + (0xF : Nibble).toNat ≤ 4095 ∧
      exec (.store 0xF) { State.reset with i := 4080 } =
        .next (got (exec (.store 0xF) { State.reset with i := 4080 })) := ⟨by decide, rfl⟩

theorem witness_FetchSeesTheStore :
    ({ State.reset with i := 4094 } : State).i.toNat + (1 : Nibble).toNat ≤ 4095 ∧
      (1 : Nibble).toNat = (0 : Nibble).toNat + 1 ∧ (1 : Nibble).toNat ≤ (1 : Nibble).toNat ∧
      exec (.store 1) { State.reset with i := 4094 } =
        .next (got (exec (.store 1) { State.reset with i := 4094 })) :=
  ⟨by decide, by decide, by decide, rfl⟩

/-- The clauses: no row; the last sprite byte at 4095; the last sprite byte at 4096. -/
theorem witness_DrawXorsTheSprite : (0 : Nibble).toNat = 0 ∧
    ({ State.reset with i := 4095 } : State).i.toNat + (1 : Nibble).toNat ≤ 4096 ∧
    ((2 : Nibble).toNat ≠ 0 ∧
      4096 < ({ State.reset with i := 4095 } : State).i.toNat + (2 : Nibble).toNat) := by decide

theorem witness_DrawTwiceRestoresTheScreen : (0 : Nibble) ≠ vf ∧ (1 : Nibble) ≠ vf ∧
    ({ State.reset with i := 4095 } : State).i.toNat + (1 : Nibble).toNat ≤ 4096 ∧
    exec (.drw 0 1 1) { State.reset with i := 4095 } =
      .next (got (exec (.drw 0 1 1) { State.reset with i := 4095 })) :=
  ⟨by decide, by decide, by decide, rfl⟩

/-- The last row and column; and R30's row-major order at the first pixel of the second row. -/
theorem witness_ClsClearsTheScreen : 31 < 32 ∧ 63 < 64 ∧
    (framebuffer { State.reset with screen := pixels [(1, 0)] })[64]? = some true ∧
    (framebuffer { State.reset with screen := pixels [(1, 0)] })[63]? = some false := by decide

/-- Both clauses, at `V[x] = 15` and `V[x] = 16`. -/
theorem witness_KeySkipsReadTheLatch : ((regs [(0, 15)]).getV 0).toNat < 16 ∧
    15 < ((regs [(0, 16)]).getV 0).toNat := by decide

theorem witness_ReadDelayTimer : Running (placed 0xF307) ∧
    fetched (placed 0xF307) = some (.instr (.ldVxDt 3)) := by decide

/-- The step clause, with the last key down. -/
theorem witness_KeyWaitEntersAwaiting :
    let s : State := { placed 0xF50A with keypad := keys [15] }
    Running s ∧ fetched s = some (.instr (.ldVxK 5)) := by decide

theorem witness_KeyWaitTakesTwoSteps :
    let s : State := { placed 0xF50A with keypad := keys [15] }
    Running s ∧ fetched s = some (.instr (.ldVxK 5)) ∧ s.keypad[(15 : Fin 16)] = true ∧
      ∀ j : Fin 16, j < 15 → s.keypad[j] = false := by decide

/-- Two RUNNING steps from reset, which decode words of zeros. -/
theorem witness_TimersOverManySteps : Trajectory (after State.reset) 2 ∧
    (∀ k, k < 2 → Running (after State.reset k)) ∧
    (∀ k, k < 2 → fetched (after State.reset k) = some (.unimplemented 0)) := by
  refine ⟨fun k hk => ?_, by decide, by decide⟩
  interval_cases k <;> rfl

theorem witness_StepsThatReturnNextAdvancePc : Trajectory (after State.reset) 2 ∧
    (after State.reset 2).halted = false ∧
    (∀ k, k < 2 → Running (after State.reset k) ∧
      fetched (after State.reset k) = some (.unimplemented 0) ∧
      returnsNext (.unimplemented 0) (after State.reset k) = true) ∧
    (after State.reset 0).pc = 0x200 := by
  refine ⟨fun k hk => ?_, by decide, by decide, rfl⟩
  interval_cases k <;> rfl

/-- A skip that is not taken returns `Next`, one that is taken does not. -/
theorem test_returns_next : returnsNext (.instr (.seImm 0 1)) State.reset = true ∧
    returnsNext (.instr (.seImm 0 0)) State.reset = false := by decide

theorem witness_SetKeypadReplacesTheLatch :
    step State.reset = .next (got (step State.reset)) := rfl

/-- The clauses: the last byte of an image that fits, with one byte more that is dropped; the address
below the image and the one above it. -/
theorem witness_LoadCopiesTheImage : 3583 < (List.replicate 3585 (0x60 : Byte)).length ∧
    0x200 + 3583 ≤ 4095 ∧ 0x1FF < 0x200 ∧ 0x200 + [(0x60 : Byte)].length ≤ 0x201 :=
  ⟨by rw [List.length_replicate]; decide, by decide, by decide, by decide⟩

end Sys2Proof.Tests
end

/-!
PROOFS. The cycle and the dispatch (spec/40_cycle_and_dispatch.md).
-/

section

/-! ### Frames of the named updates

Each is stated for any `may` that names the part the update writes, so that `Frame.trans` chains them as they
stand. -/

namespace Sys2Proof.Safety

open Sys2Proof.Machine

theorem Frame.trans {may : Changes} {s t u : State} (hst : Frame may s t) (htu : Frame may t u) :
    Frame may s u := by
  obtain ⟨mem, v, i, pc, sp, stack, screen, keypad, dt, st, wait, halt, rnd⟩ := hst
  obtain ⟨mem', v', i', pc', sp', stack', screen', keypad', dt', st', wait', halt', rnd'⟩ := htu
  exact ⟨fun h a => (mem' h a).trans (mem h a), fun h k => (v' h k).trans (v h k),
    fun h => (i' h).trans (i h), fun h => (pc' h).trans (pc h), fun h => (sp' h).trans (sp h),
    fun h => (stack' h).trans (stack h), fun h => (screen' h).trans (screen h),
    fun h => (keypad' h).trans (keypad h), fun h => (dt' h).trans (dt h),
    fun h => (st' h).trans (st h),
    fun h => ⟨(wait' h).1.trans (wait h).1, (wait' h).2.trans (wait h).2⟩,
    fun h => ⟨(halt' h).1.trans (halt h).1, (halt' h).2.trans (halt h).2⟩,
    fun h => (rnd' h).trans (rnd h)⟩

theorem frame_setV {may : Changes} (hv : may.v = true) (s : State) (x : Nibble) (b : Byte) :
    Frame may s (s.setV x b) := by
  simp [Frame, hv, State.memRead_congr s (s.setV x b) rfl]

theorem frame_endWait {may : Changes} (hw : may.wait = true) (s : State) :
    Frame may s s.endWait := by
  simp [Frame, hw, State.memRead_congr s s.endWait rfl]

theorem frame_enterWait {may : Changes} (hw : may.wait = true) (s : State) (x : Nibble) :
    Frame may s (s.enterWait x) := by
  simp [Frame, hw, State.memRead_congr s (s.enterWait x) rfl]

theorem frame_applyDirective {may : Changes} (hp : may.pc = true) (d : Directive) (s : State) :
    Frame may s (applyDirective d s) := by
  simp [Frame, hp, State.memRead_congr s (applyDirective d s) (applyDirective_mem d s)]

theorem frame_tickTimers {may : Changes} (hdt : may.dt = true) (hst : may.st = true) (s : State) :
    Frame may s s.tickTimers := by
  simp [Frame, hdt, hst, State.memRead_congr s s.tickTimers rfl]

/-! ### The RUNNING step of a fetched variant -/

theorem step_of_fetched (s : State) (v : Variant) (hr : Running s) (hf : fetched s = some v) :
    step s = execVariant v s.tickTimers := by
  obtain ⟨w, hw, rfl⟩ := Option.map_eq_some_iff.1 hf
  exact (step_of_running s hr.1 hr.2).trans (runningStep_of_fetch s w hw)

end Sys2Proof.Safety

namespace Sys2Proof.Machine

/-! ### The AWAITING step (R123) -/

theorem lowestKey_of_least (keys : Keypad) (k : Fin 16) (hk : keys[k] = true)
    (least : ∀ j : Fin 16, j < k → keys[j] = false) : lowestKey keys = some k.val :=
  (lowestKey_eq_some keys k.val).2 ⟨k.isLt, hk, fun j hj => least ⟨j, hj.trans k.isLt⟩ hj⟩

theorem lowestKey_of_no_key (keys : Keypad) (up : ∀ k : Fin 16, keys[k] = false) :
    lowestKey keys = none :=
  (lowestKey_eq_none keys).2 fun k hk => up ⟨k, hk⟩

theorem awaitingStep_of_lowestKey (s : State) (k : Nat) (h : lowestKey s.keypad = some k) :
    awaitingStep s = .next (s.setV s.target (BitVec.ofNat 8 k)).endWait := by
  simp [awaitingStep, h]

theorem awaitingStep_of_no_key (s : State) (h : lowestKey s.keypad = none) :
    awaitingStep s = .next s := by
  simp [awaitingStep, h]

/-! ### LD Vx,K (R203, R129) -/

theorem exec_ldVxK (x : Nibble) (s : State) :
    exec (.ldVxK x) s = .next ((applyDirective .next s).enterWait x) := rfl

end Sys2Proof.Machine

namespace Sys2Proof.Proofs

open Sys2Proof.Machine Sys2Proof.Safety

/-- Settles O12: the scan finds exactly the least down key, and the capture is a register write followed by the
end of the wait. -/
theorem awaitingStepCapturesTheLeastKey : Obligations.AwaitingStepCapturesTheLeastKey := by
  unfold Obligations.AwaitingStepCapturesTheLeastKey
  intro s ⟨hh, ha⟩
  rw [step_of_awaiting s hh ha]
  constructor
  · intro k hk least
    have capture := awaitingStep_of_lowestKey s k.val (lowestKey_of_least s.keypad k hk least)
    refine ⟨_, capture, rfl, rfl, fun r => ?_, ?_⟩
    · rw [State.getV_endWait, State.getV_setV]
    · exact (frame_setV rfl s _ _).trans (frame_endWait rfl _)
  · intro up
    exact awaitingStep_of_no_key s (lowestKey_of_no_key s.keypad up)

/-- Settles O53: the handler applies `Next` and then enters the wait; its step does the same on the state after
the countdown. -/
theorem keyWaitEntersAwaiting : Obligations.KeyWaitEntersAwaiting := by
  unfold Obligations.KeyWaitEntersAwaiting
  intro x s
  constructor
  · exact ⟨_, exec_ldVxK x s, rfl, rfl, rfl,
      (frame_applyDirective rfl .next s).trans (frame_enterWait rfl _ x)⟩
  · intro hr hf
    have entered : step s = .next ((applyDirective .next s.tickTimers).enterWait x) :=
      (step_of_fetched s _ hr hf).trans (exec_ldVxK x s.tickTimers)
    exact ⟨_, entered, rfl, ⟨hr.1, rfl⟩, rfl,
      (frame_tickTimers rfl rfl s).trans
        ((frame_applyDirective rfl .next _).trans (frame_enterWait rfl _ x))⟩

end Sys2Proof.Proofs

end

/-!
PROOFS. Faults and host operations (spec/60_exceptions.md).
-/

section

namespace Sys2Proof.Safety

open Sys2Proof.Machine

theorem frame_setKeypad {may : Changes} (hk : may.keypad = true) (s : State) (keys : Keypad) :
    Frame may s (s.setKeypad keys) := by
  simp [Frame, hk, State.memRead_congr s (s.setKeypad keys) rfl,
    State.getV_congr s (s.setKeypad keys) rfl]

end Sys2Proof.Safety

namespace Sys2Proof.Machine

/-! ### The shared operations keep the latch (R31) -/

theorem State.pop_keypad {s t : State} {a : Word} (h : s.pop = some (a, t)) :
    t.keypad = s.keypad := by
  by_cases hsp : s.sp.val = 0
  · rw [s.pop_of_zero hsp] at h
    contradiction
  · rw [s.pop_of_pos hsp] at h
    cases h
    rfl

theorem State.push_keypad {s t : State} {a : Word} (h : s.push a = some t) :
    t.keypad = s.keypad := by
  by_cases hsp : s.sp.val < 16
  · rw [s.push_of_lt a hsp] at h
    cases h
    rfl
  · rw [s.push_of_full a (by omega)] at h
    contradiction

theorem State.storeBytes_keypad {s t : State} {base : Nat} {bytes : List Byte}
    (h : s.storeBytes base bytes = some t) : t.keypad = s.keypad := by
  rcases s.storeBytes_cases base bytes with ⟨-, stored⟩ | ⟨-, -, outside⟩
  · cases stored.symm.trans h
    rfl
  · cases outside.symm.trans h

/-! ### Every ending of a step keeps the latch (R31, R228) -/

/-- Where the outcome is a next state, that state has the latch of `s`. -/
def KeepsKeypad (s : State) (r : Result) : Prop := ∀ t, r = .next t → t.keypad = s.keypad

theorem KeepsKeypad.next {s t : State} (h : t.keypad = s.keypad) : KeepsKeypad s (.next t) := by
  rintro _ ⟨⟩
  exact h

theorem KeepsKeypad.complete {s t : State} {d : Directive} (h : t.keypad = s.keypad) :
    KeepsKeypad s (complete d t) :=
  .next ((applyDirective_keypad d t).trans h)

theorem KeepsKeypad.raiseFault (s : State) (f : Fault) : KeepsKeypad s (raiseFault f s) :=
  .next (State.recordFault_keypad s f)

/-- The handlers come in three shapes: a directive on updates that leave the latch alone, a checked operation
that ends in a directive or a fault, and the entry into the wait. -/
theorem exec_keepsKeypad (i : Instr) (s : State) : KeepsKeypad s (exec i s) := by
  cases i with
  | cls | jp | seImm | sneImm | seReg | sneReg | jpV0 | ldImm | addImm | ldReg | orReg | andReg | xorReg
  | addReg | sub | shr | subn | shl | rnd | ldI | addI | ldF | ldVxDt | ldDtVx | ldStVx =>
    exact .complete rfl
  | ldVxK x => exact .next rfl
  | ret =>
    dsimp only [exec, execRet]
    split
    · next popped => exact .complete (State.pop_keypad popped)
    · exact .raiseFault s _
  | call =>
    dsimp only [exec, execCall]
    split
    · next pushed => exact .complete (State.push_keypad pushed)
    · exact .raiseFault s _
  | ldB | store =>
    dsimp only [exec, execLdB, execStore]
    split
    · next stored => exact .complete (State.storeBytes_keypad stored)
    · exact .raiseFault s _
  | load | drw | skp | sknp =>
    dsimp only [exec, execLoad, execDrw, execSkp, execSknp]
    split
    · exact .complete rfl
    · exact .raiseFault s _

theorem execVariant_keepsKeypad (v : Variant) (s : State) : KeepsKeypad s (execVariant v s) := by
  cases v with
  | instr i => exact exec_keepsKeypad i s
  | unimplemented w => exact .complete rfl

theorem awaitingStep_keepsKeypad (s : State) : KeepsKeypad s (awaitingStep s) := by
  rcases awaitingStep_cases s with ⟨k, -, -, captured⟩ | ⟨-, nothing⟩
  · rw [captured]
    exact .next rfl
  · rw [nothing]
    exact .next rfl

theorem step_keepsKeypad (s : State) : KeepsKeypad s (step s) := by
  rcases step_cases s with ⟨-, halted⟩ | ⟨-, -, awaiting⟩ | ⟨-, -, -, faulted⟩ | ⟨-, -, -, w, -, ran⟩
  · rw [halted]
    exact .next rfl
  · rw [awaiting]
    exact awaitingStep_keepsKeypad s
  · rw [faulted]
    exact .next rfl
  · rw [ran]
    -- The countdown keeps the latch, so the latch of its state is that of `s`.
    exact execVariant_keepsKeypad (decode w) s.tickTimers

end Sys2Proof.Machine

namespace Sys2Proof.Proofs

open Sys2Proof.Machine Sys2Proof.Safety

/-- Settles O60: the call writes one field, and every ending of a step keeps that field. -/
theorem setKeypadReplacesTheLatch : Obligations.SetKeypadReplacesTheLatch := by
  unfold Obligations.SetKeypadReplacesTheLatch
  constructor
  · intro s keys
    exact ⟨s.setKeypad keys, rfl, fun _ => rfl, frame_setKeypad rfl s keys⟩
  · exact step_keepsKeypad

end Sys2Proof.Proofs

end

/-!
PROOFS. Reset and hazards (spec/70_reset_and_hazards.md).
-/

section

namespace Sys2Proof.Safety

open Sys2Proof.Machine

theorem frame_loadProgram {may : Changes} (hm : may.mem = true) (s : State) (bytes : List Byte) :
    Frame may s (s.loadProgram bytes) := by
  simp [Frame, hm, State.getV_congr s (s.loadProgram bytes) rfl]

theorem pc_le_of_fetched {s : State} {v : Variant} (hf : fetched s = some v) :
    s.pc.toNat ≤ 4094 := by
  by_contra outside
  simp [fetched, s.fetch16_of_gt s.pc.toNat (by omega)] at hf

end Sys2Proof.Safety

namespace Sys2Proof.Machine

open Sys2Proof.Safety

/-! ### What `load` leaves at an address (R243) -/

theorem State.memRead_loadProgram_image (s : State) (bytes : List Byte) (k : Nat)
    (h : k < bytes.length) (fits : 0x200 + k ≤ 4095) :
    (s.loadProgram bytes).memRead (0x200 + k) = some bytes[k] := by
  have inImage : Config.progBase ≤ 0x200 + k ∧ 0x200 + k ≤ 4095 := ⟨Nat.le_add_right _ _, fits⟩
  rw [State.memRead_of_le _ _ fits, State.loadProgram_mem, Memory.read_loadFrom, if_pos inImage]
  simp [Config.progBase, h]

theorem State.memRead_loadProgram_outside (s : State) (bytes : List Byte) (a : Nat)
    (h : a < 0x200 ∨ 0x200 + bytes.length ≤ a) :
    (s.loadProgram bytes).memRead a = s.memRead a := by
  have unread : (s.mem.loadFrom Config.progBase bytes).read a = s.mem.read a := by
    rw [Memory.read_loadFrom]
    split
    · next inRange =>
      have past : bytes.length ≤ a - Config.progBase := by
        simp only [Config.progBase] at inRange ⊢
        omega
      exact List.getD_eq_default _ _ past
    · rfl
  simp only [State.memRead, State.loadProgram_mem, unread]

/-! ### Equal operands of a subtraction (R168, R170, R252) -/

theorem subFlag_self (a : Byte) : subFlag a a = false := by
  simp [subFlag]

/-- The flag is written last, so VF is 0 whatever the destination and the result. -/
theorem getV_vf_of_equal_operands (s : State) (x : Nibble) (result : Byte) {a b : Byte}
    (h : a = b) : (applyDirective .next (s.setVFlag x result (subFlag a b))).getV vf = 0 := by
  rw [State.getV_applyDirective, State.getV_setVFlag, if_pos rfl, h, subFlag_self]
  rfl

/-! ### A handler that returns `Next` adds 2 to `pc` or raises a fault (R126, R248) -/

theorem State.storeBytes_pc {s t : State} {base : Nat} {bytes : List Byte}
    (h : s.storeBytes base bytes = some t) : t.pc = s.pc := by
  rcases s.storeBytes_cases base bytes with ⟨-, stored⟩ | ⟨-, -, outside⟩
  · cases stored.symm.trans h
    rfl
  · cases outside.symm.trans h

/-- Where the outcome is a next state that is not halted, its `pc` is the next word's address. -/
def AdvancesUnlessHalted (s : State) (r : Result) : Prop :=
  ∀ t, r = .next t → t.halted = false → t.pc = s.pc + 2

theorem AdvancesUnlessHalted.next {s t : State} (h : t.pc = s.pc + 2) :
    AdvancesUnlessHalted s (.next t) := by
  rintro _ ⟨⟩ -
  exact h

theorem AdvancesUnlessHalted.complete {s t : State} (h : t.pc = s.pc) :
    AdvancesUnlessHalted s (complete .next t) :=
  .next (congrArg (· + 2) h)

theorem AdvancesUnlessHalted.skipIf {s : State} {c : Bool} (h : c = false) :
    AdvancesUnlessHalted s (skipIf c s) := by
  rw [h]
  exact .complete rfl

theorem AdvancesUnlessHalted.raiseFault (s : State) (f : Fault) :
    AdvancesUnlessHalted s (raiseFault f s) := by
  rintro _ ⟨⟩ running
  cases running

/-- The jumps, the call and the return never return `Next`; a skip does where its condition fails; every other
handler does, or raises a fault. -/
theorem exec_advancesUnlessHalted (i : Instr) (s : State) (h : returnsNext (.instr i) s = true) :
    AdvancesUnlessHalted s (exec i s) := by
  cases i with
  | ret | jp | call | jpV0 => cases h
  | seImm | sneImm | seReg | sneReg => exact .skipIf (by simpa [returnsNext] using h)
  | skp | sknp =>
    dsimp only [exec, execSkp, execSknp]
    split
    · next key => exact .skipIf (by simpa [returnsNext, key] using h)
    · exact .raiseFault s _
  | cls | ldImm | addImm | ldReg | orReg | andReg | xorReg | addReg | sub | shr | subn | shl | ldI | rnd
  | ldVxDt | ldDtVx | ldStVx | addI | ldF =>
    exact .complete rfl
  | ldVxK => exact .next rfl
  | ldB | store =>
    dsimp only [exec, execLdB, execStore]
    split
    · next stored => exact .complete (State.storeBytes_pc stored)
    · exact .raiseFault s _
  | drw | load =>
    dsimp only [exec, execDrw, execLoad]
    split
    · exact .complete rfl
    · exact .raiseFault s _

theorem execVariant_advancesUnlessHalted (v : Variant) (s : State) (h : returnsNext v s = true) :
    AdvancesUnlessHalted s (execVariant v s) := by
  cases v with
  | instr i => exact exec_advancesUnlessHalted i s h
  | unimplemented w => exact .complete rfl

/-- The countdown leaves what `Next` depends on alone. -/
theorem returnsNext_tickTimers (v : Variant) (s : State) :
    returnsNext v s.tickTimers = returnsNext v s := rfl

theorem step_advancesUnlessHalted {s : State} {v : Variant} (hr : Running s)
    (hf : fetched s = some v) (h : returnsNext v s = true) : AdvancesUnlessHalted s (step s) := by
  rw [step_of_fetched s v hr hf]
  exact execVariant_advancesUnlessHalted v s.tickTimers ((returnsNext_tickTimers v s).trans h)

/-- The fetch was in range, so the sum does not wrap. -/
theorem step_pc_toNat_of_returnsNext {s t : State} {v : Variant} (hr : Running s)
    (hf : fetched s = some v) (h : returnsNext v s = true) (hs : step s = .next t)
    (ht : t.halted = false) : t.pc.toNat = s.pc.toNat + 2 := by
  have inRange := pc_le_of_fetched hf
  have advanced := step_advancesUnlessHalted hr hf h t hs ht
  bv_omega

end Sys2Proof.Machine

namespace Sys2Proof.Proofs

open Sys2Proof.Machine Sys2Proof.Safety

/-- Settles O58, by induction on the number of steps: a RUNNING step whose handler returns `Next` adds 2 to `pc`
unless it halts, and a state from which a further step is RUNNING has not halted. -/
theorem stepsThatReturnNextAdvancePc : Obligations.StepsThatReturnNextAdvancePc := by
  unfold Obligations.StepsThatReturnNextAdvancePc
  intro f n run alive nexts
  have advanced : (f n).pc.toNat = (f 0).pc.toNat + 2 * n := by
    induction n with
    | zero => rfl
    | succ n ih =>
      obtain ⟨running, v, hf, hv⟩ := nexts n n.lt_succ_self
      have before := ih (fun k hk => run k (by omega)) running.1 fun k hk => nexts k (by omega)
      have last := step_pc_toNat_of_returnsNext running hf hv (run n n.lt_succ_self) alive
      omega
  refine ⟨advanced, fun start => ?_⟩
  rw [advanced, start]
  rfl

/-- Settles O59: each byte is read back where the copy put it, and everything else stands. -/
theorem loadCopiesTheImage : Obligations.LoadCopiesTheImage := by
  unfold Obligations.LoadCopiesTheImage
  intro s bytes
  exact ⟨s.memRead_loadProgram_image bytes, s.memRead_loadProgram_outside bytes,
    frame_loadProgram rfl s bytes⟩

/-- Settles O37: no byte is strictly greater than itself, and both handlers write the flag last. -/
theorem subtractFlagIsZeroAtEquality : Obligations.SubtractFlagIsZeroAtEquality := by
  unfold Obligations.SubtractFlagIsZeroAtEquality
  intro x y s equal
  exact ⟨⟨_, rfl, getV_vf_of_equal_operands s x _ equal⟩,
    ⟨_, rfl, getV_vf_of_equal_operands s x _ equal.symm⟩⟩

end Sys2Proof.Proofs

end

/-!
PROOFS. The decoder, the encoder and the opcode map (spec/30_encoding.md).
-/

section

namespace Sys2Proof

/-! ### Decoding an encoded instruction (R94, R98) -/

/-- `decode` reads the selectors that the encoder put into the word, and then the operand fields. -/
@[simp] theorem decode_encode (i : Instr) : decode (encode i) = .instr i := by
  cases i with
  | cls | ret => decide
  | jp | call | ldI | jpV0 => simp [encode, decode]
  | seImm | sneImm | ldImm | addImm | rnd => simp [encode, decode]
  | seReg | sneReg | drw => simp [encode, decode]
  | ldReg | orReg | andReg | xorReg | addReg | sub | shr | subn | shl =>
    simp [encode, decode, decode8]
  | skp | sknp => simp [encode, decode, decodeE]
  | ldVxDt | ldVxK | ldDtVx | ldStVx | addI | ldF | ldB | store | load =>
    simp [encode, decode, decodeF]

/-! ### Encoding what was decoded (R94, R99) -/

section
variable {w : Word} {op n : Nibble} {kk : Byte}

theorem wordNNN_of_selector (hop : opOf w = op) : wordNNN op (nnnOf w) = w := by
  rw [← hop, wordNNN_fields]

theorem wordXKK_of_selector (hop : opOf w = op) : wordXKK op (xOf w) (kkOf w) = w := by
  rw [← hop, wordXKK_fields]

theorem wordXKK_of_selectors (hop : opOf w = op) (hkk : kkOf w = kk) :
    wordXKK op (xOf w) kk = w := by
  rw [← hop, ← hkk, wordXKK_fields]

theorem wordXYN_of_selector (hop : opOf w = op) : wordXYN op (xOf w) (yOf w) (nOf w) = w := by
  rw [← hop, wordXYN_fields]

theorem wordXYN_of_selectors (hop : opOf w = op) (hn : nOf w = n) :
    wordXYN op (xOf w) (yOf w) n = w := by
  rw [← hop, ← hn, wordXYN_fields]

theorem encodeVariant_decode0 : encodeVariant (decode0 w) = w := by
  unfold decode0
  split
  · next h => exact h.symm
  · split
    · next h => exact h.symm
    · rfl

theorem encodeVariant_decode8 (hop : opOf w = 0x8#4) : encodeVariant (decode8 w) = w := by
  unfold decode8
  split
  case h_10 => rfl
  all_goals next hn => exact wordXYN_of_selectors hop hn

theorem encodeVariant_decodeE (hop : opOf w = 0xE#4) : encodeVariant (decodeE w) = w := by
  unfold decodeE
  split
  case h_3 => rfl
  all_goals next hkk => exact wordXKK_of_selectors hop hkk

theorem encodeVariant_decodeF (hop : opOf w = 0xF#4) : encodeVariant (decodeF w) = w := by
  unfold decodeF
  split
  case h_10 => rfl
  all_goals next hkk => exact wordXKK_of_selectors hop hkk

end

/-- By the families of `decode`, grouped by the format of their words (R92). -/
theorem encodeVariant_decode (w : Word) : encodeVariant (decode w) = w := by
  unfold decode
  split
  case h_1 => exact encodeVariant_decode0
  case h_9 hop => exact encodeVariant_decode8 hop
  case h_15 hop => exact encodeVariant_decodeE hop
  case h_16 hop => exact encodeVariant_decodeF hop
  case h_2 hop | h_3 hop | h_11 hop | h_12 hop => exact wordNNN_of_selector hop
  case h_4 hop | h_5 hop | h_7 hop | h_8 hop | h_13 hop => exact wordXKK_of_selector hop
  case h_14 hop => exact wordXYN_of_selector hop
  case h_6 hop | h_10 hop =>
    split
    · next hn => exact wordXYN_of_selectors hop hn
    · rfl
  case h_17 => rfl

theorem encode_of_decode {w : Word} {i : Instr} (h : decode w = .instr i) : encode i = w := by
  have back := encodeVariant_decode w
  rwa [h] at back

theorem eq_of_decode_unimplemented {w u : Word} (h : decode w = .unimplemented u) : u = w := by
  have back := encodeVariant_decode w
  rwa [h] at back

/-! ### The words of R99 -/

/-- What R99 says of a word that decodes to the variant: it is listed exactly when the variant is no
instruction. -/
def Variant.AgreesWithList (w : Word) : Variant → Prop
  | .instr _ => isUnimplementedWord w = false
  | .unimplemented _ => isUnimplementedWord w = true

section
variable {w : Word}

theorem decode0_agreesWithList (hop : opOf w = 0x0#4) : (decode0 w).AgreesWithList w := by
  have family : w.toNat / 0x1000 = 0x0 := by rw [← opOf_toNat, hop]; rfl
  unfold decode0
  split
  · next h => simp [Variant.AgreesWithList, h, isUnimplementedWord]
  · split
    · next h => simp [Variant.AgreesWithList, h, isUnimplementedWord]
    · simp_all [Variant.AgreesWithList, isUnimplementedWord, ← BitVec.toNat_inj]

theorem decode8_agreesWithList (hop : opOf w = 0x8#4) : (decode8 w).AgreesWithList w := by
  have family : w.toNat / 0x1000 = 0x8 := by rw [← opOf_toNat, hop]; rfl
  unfold decode8
  split
  case h_10 =>
    simp only [imp_false] at *
    simp [Variant.AgreesWithList, isUnimplementedWord, family, ← nOf_toNat]
    bv_omega
  all_goals next hn => simp [Variant.AgreesWithList, isUnimplementedWord, family, ← nOf_toNat, hn]

theorem decodeE_agreesWithList (hop : opOf w = 0xE#4) : (decodeE w).AgreesWithList w := by
  have family : w.toNat / 0x1000 = 0xE := by rw [← opOf_toNat, hop]; rfl
  unfold decodeE
  split
  case h_3 =>
    simp_all [Variant.AgreesWithList, isUnimplementedWord, ← kkOf_toNat, ← BitVec.toNat_inj]
  all_goals next hkk => simp [Variant.AgreesWithList, isUnimplementedWord, family, ← kkOf_toNat, hkk]

theorem decodeF_agreesWithList (hop : opOf w = 0xF#4) : (decodeF w).AgreesWithList w := by
  have family : w.toNat / 0x1000 = 0xF := by rw [← opOf_toNat, hop]; rfl
  unfold decodeF
  split
  case h_10 =>
    simp_all [Variant.AgreesWithList, isUnimplementedWord, ← kkOf_toNat, ← BitVec.toNat_inj]
  all_goals next hkk => simp [Variant.AgreesWithList, isUnimplementedWord, family, ← kkOf_toNat, hkk]

end

theorem decode_agreesWithList (w : Word) : (decode w).AgreesWithList w := by
  unfold decode
  split
  case h_1 hop => exact decode0_agreesWithList hop
  case h_9 hop => exact decode8_agreesWithList hop
  case h_15 hop => exact decodeE_agreesWithList hop
  case h_16 hop => exact decodeF_agreesWithList hop
  case h_6 hop | h_10 hop =>
    split
    all_goals
      simp_all [Variant.AgreesWithList, isUnimplementedWord, ← opOf_toNat, ← nOf_toNat,
        ← BitVec.toNat_inj]
  case h_17 =>
    -- The sixteen values are all a nibble has.
    simp only [imp_false] at *
    bv_omega
  all_goals
    next hop => simp [Variant.AgreesWithList, isUnimplementedWord, ← opOf_toNat, hop]

theorem isUnimplementedWord_of_decode {w u : Word} (h : decode w = .unimplemented u) :
    isUnimplementedWord w = true := by
  have agrees := decode_agreesWithList w
  rwa [h] at agrees

theorem isUnimplementedWord_iff (w : Word) :
    isUnimplementedWord w = true ↔ decode w = .unimplemented w := by
  refine ⟨fun listed => ?_, isUnimplementedWord_of_decode⟩
  cases h : decode w with
  | instr i =>
    have agrees := decode_agreesWithList w
    rw [h] at agrees
    cases agrees.symm.trans listed
  | unimplemented u => rw [eq_of_decode_unimplemented h]

/-! ### The rows of R98 -/

/-- The number of the row of R98 that the variant is of, if it is an instruction. -/
def Variant.rowNumber? : Variant → Option Nat
  | .instr i => some i.rowNumber
  | .unimplemented _ => none

theorem Variant.rowNumber?_eq_some (v : Variant) (k : Nat) :
    v.rowNumber? = some k ↔ ∃ i, v = .instr i ∧ i.rowNumber = k := by
  cases v <;> simp [Variant.rowNumber?]

section
variable {w m b : Word}

theorem opOf_eq_of_match (h : w &&& m = b) (hm : opOf m = BitVec.allOnes 4) : opOf w = opOf b := by
  have masked : opOf (w &&& m) = opOf w &&& opOf m := BitVec.extractLsb'_and
  rw [← h, masked, hm, BitVec.and_allOnes]

theorem nOf_eq_of_match (h : w &&& m = b) (hm : nOf m = BitVec.allOnes 4) : nOf w = nOf b := by
  have masked : nOf (w &&& m) = nOf w &&& nOf m := BitVec.extractLsb'_and
  rw [← h, masked, hm, BitVec.and_allOnes]

theorem kkOf_eq_of_match (h : w &&& m = b) (hm : kkOf m = BitVec.allOnes 8) : kkOf w = kkOf b := by
  have masked : kkOf (w &&& m) = kkOf w &&& kkOf m := BitVec.extractLsb'_and
  rw [← h, masked, hm, BitVec.and_allOnes]

theorem decode_of_op8 (hop : opOf w = 0x8#4) : decode w = decode8 w := by rw [decode, hop]; rfl

theorem decode_of_opE (hop : opOf w = 0xE#4) : decode w = decodeE w := by rw [decode, hop]; rfl

theorem decode_of_opF (hop : opOf w = 0xF#4) : decode w = decodeF w := by rw [decode, hop]; rfl

end

/-- The mask of a row covers the selectors of its family, so a match fixes what `decode` dispatches on. -/
theorem rowNumber?_decode_of_match (w : Word) :
    ∀ r ∈ opcodeTable, w &&& r.mask = r.bits → (decode w).rowNumber? = some r.number := by
  simp only [opcodeTable, opcodeRowsLow, opcodeRowsHigh, List.cons_append, List.nil_append,
    List.forall_mem_cons]
  refine ⟨?cls, ?ret, ?jp, ?call, ?seImm, ?sneImm, ?seReg, ?ldImm, ?addImm, ?ldReg, ?orReg, ?andReg,
    ?xorReg, ?addReg, ?sub, ?shr, ?subn, ?shl, ?sneReg, ?ldI, ?jpV0, ?rnd, ?drw, ?skp, ?sknp, ?ldVxDt,
    ?ldVxK, ?ldDtVx, ?ldStVx, ?addI, ?ldF, ?ldB, ?store, ?load, by simp⟩
  all_goals intro h
  case cls | ret =>
    obtain rfl : w = _ := (BitVec.and_allOnes (x := w)).symm.trans h
    rfl
  case jp | call | seImm | sneImm | ldImm | addImm | ldI | jpV0 | rnd | drw =>
    rw [decode, opOf_eq_of_match h rfl]
    rfl
  case seReg | sneReg =>
    rw [decode, opOf_eq_of_match h rfl]
    exact congrArg Variant.rowNumber? (if_pos (nOf_eq_of_match h rfl))
  case ldReg | orReg | andReg | xorReg | addReg | sub | shr | subn | shl =>
    rw [decode_of_op8 (opOf_eq_of_match h rfl), decode8, nOf_eq_of_match h rfl]
    rfl
  case skp | sknp =>
    rw [decode_of_opE (opOf_eq_of_match h rfl), decodeE, kkOf_eq_of_match h rfl]
    rfl
  case ldVxDt | ldVxK | ldDtVx | ldStVx | addI | ldF | ldB | store | load =>
    rw [decode_of_opF (opOf_eq_of_match h rfl), decodeF, kkOf_eq_of_match h rfl]
    rfl

theorem encode_matches_row (i : Instr) : Laws.RowPattern.Statement i :=
  open Laws.RowPattern in
  match i with
  | .cls => cls
  | .ret => ret
  | .jp nnn => jp nnn
  | .call nnn => call nnn
  | .seImm x kk => seImm x kk
  | .sneImm x kk => sneImm x kk
  | .seReg x y => seReg x y
  | .ldImm x kk => ldImm x kk
  | .addImm x kk => addImm x kk
  | .ldReg x y => ldReg x y
  | .orReg x y => orReg x y
  | .andReg x y => andReg x y
  | .xorReg x y => xorReg x y
  | .addReg x y => addReg x y
  | .sub x y => sub x y
  | .shr x y => shr x y
  | .subn x y => subn x y
  | .shl x y => shl x y
  | .sneReg x y => sneReg x y
  | .ldI nnn => ldI nnn
  | .jpV0 nnn => jpV0 nnn
  | .rnd x kk => rnd x kk
  | .drw x y n => drw x y n
  | .skp x => skp x
  | .sknp x => sknp x
  | .ldVxDt x => ldVxDt x
  | .ldVxK x => ldVxK x
  | .ldDtVx x => ldDtVx x
  | .ldStVx x => ldStVx x
  | .addI x => addI x
  | .ldF x => ldF x
  | .ldB x => ldB x
  | .store x => store x
  | .load x => load x

theorem opcodeTable_number_inj :
    ∀ r ∈ opcodeTable, ∀ r' ∈ opcodeTable, r'.number = r.number → r' = r := by decide

theorem match_iff_decode (w : Word) (r : OpRow) (hr : r ∈ opcodeTable) :
    w &&& r.mask = r.bits ↔ ∃ i, decode w = .instr i ∧ i.rowNumber = r.number := by
  refine ⟨fun h => (Variant.rowNumber?_eq_some _ _).1 (rowNumber?_decode_of_match w r hr h), ?_⟩
  rintro ⟨i, decoded, number⟩
  obtain ⟨row, mem, rowNumber, fits⟩ := encode_matches_row i
  obtain rfl := opcodeTable_number_inj r hr row mem (rowNumber.trans number)
  rwa [encode_of_decode decoded] at fits

end Sys2Proof

namespace Sys2Proof.Proofs

open Sys2Proof

/-- Settles O1: the two bytes of a word are read as that word, and the encoder's word decodes to its
instruction. -/
theorem decodeOfEncodeIsTheInstruction : Obligations.DecodeOfEncodeIsTheInstruction := by
  unfold Obligations.DecodeOfEncodeIsTheInstruction
  intro i rest
  rw [decodeBytes_bytesOfWord, decode_encode]

/-- Settles O2: the operands of a decoded word are its fields, and the selectors are those of its family. -/
theorem encodeOfDecodeIsTheWord : Obligations.EncodeOfDecodeIsTheWord :=
  encodeVariant_decode

/-- Settles O3: a matching word has the row's selectors, and a decoded instruction's word fits the row of its
number, which is the only row with that number. -/
theorem decoderAgreesWithOpcodeMap : Obligations.DecoderAgreesWithOpcodeMap :=
  match_iff_decode

/-- Settles O4: `decode` and R99 agree on every word, and a word matches a row exactly when it decodes to an
instruction. -/
theorem unimplementedWordsAreTheListedOnes : Obligations.UnimplementedWordsAreTheListedOnes := by
  unfold Obligations.UnimplementedWordsAreTheListedOnes
  intro w
  refine ⟨?wellFormed, isUnimplementedWord_iff w, ?noRow⟩
  case wellFormed =>
    cases h : decode w with
    | instr i => rfl
    | unimplemented u =>
      rw [eq_of_decode_unimplemented h]
      exact isUnimplementedWord_of_decode h
  case noRow =>
    rw [isUnimplementedWord_iff]
    constructor
    · intro unimplemented r hr fits
      obtain ⟨i, decoded, -⟩ := (match_iff_decode w r hr).1 fits
      cases decoded.symm.trans unimplemented
    · intro noRow
      cases h : decode w with
      | instr i =>
        obtain ⟨r, hr, -, fits⟩ := encode_matches_row i
        rw [encode_of_decode h] at fits
        exact absurd fits (noRow r hr)
      | unimplemented u => rw [eq_of_decode_unimplemented h]

/-- Settles O5: the words are closed data, and `decode` computes. -/
theorem sampleWordsDecode : Obligations.SampleWordsDecode := by
  unfold Obligations.SampleWordsDecode
  decide

end Sys2Proof.Proofs

end

/-!
PROOFS. What one instruction can do: its fault or its frame (spec/60_exceptions.md R211, spec/10_state.md).
-/

section

/-! ### Frames of the remaining updates -/

namespace Sys2Proof.Safety

open Sys2Proof.Machine

section
variable {may : Changes} (s : State)

theorem frame_setI (hi : may.i = true) (a : Word) : Frame may s (s.setI a) := by
  simp [Frame, hi, State.memRead_congr s (s.setI a) rfl]

theorem frame_setFlag (hv : may.v = true) (c : Bool) : Frame may s (s.setFlag c) :=
  frame_setV hv s vf (flagByte c)

theorem frame_setVFlag (hv : may.v = true) (x : Nibble) (b : Byte) (c : Bool) :
    Frame may s (s.setVFlag x b c) :=
  (frame_setV hv s x b).trans (frame_setFlag _ hv c)

theorem frame_setBlock (hv : may.v = true) (bytes : List Byte) : Frame may s (s.setBlock bytes) := by
  simp [Frame, hv, State.memRead_congr s (s.setBlock bytes) rfl]

theorem frame_setMem (hm : may.mem = true) (m : Memory) : Frame may s (s.setMem m) := by
  simp [Frame, hm]

theorem frame_setScreen (hg : may.screen = true) (g : Screen) : Frame may s (s.setScreen g) := by
  simp [Frame, hg, State.memRead_congr s (s.setScreen g) rfl]

theorem frame_setDt (hdt : may.dt = true) (b : Byte) : Frame may s (s.setDt b) := by
  simp [Frame, hdt, State.memRead_congr s (s.setDt b) rfl]

theorem frame_setSt (hst : may.st = true) (b : Byte) : Frame may s (s.setSt b) := by
  simp [Frame, hst, State.memRead_congr s (s.setSt b) rfl]

theorem frame_consumeRnd (hr : may.rnd = true) : Frame may s s.consumeRnd := by
  simp [Frame, hr, State.memRead_congr s s.consumeRnd rfl]

theorem frame_setRndCount (hr : may.rnd = true) (count : Nat) :
    Frame may s { s with rndCount := count } := by
  simp [Frame, hr, State.memRead, State.getV]

theorem frame_recordFault (hh : may.halt = true) (f : Fault) : Frame may s (s.recordFault f) := by
  simp [Frame, hh, State.memRead_congr s (s.recordFault f) rfl]

theorem frame_setSp (hp : may.sp = true) (sp : Fin 17) : Frame may s { s with sp := sp } := by
  simp [Frame, hp, State.memRead, State.getV]

theorem frame_setStack (hst : may.stack = true) (hp : may.sp = true) (stack : Stack) (sp : Fin 17) :
    Frame may s { s with stack := stack, sp := sp } := by
  simp [Frame, hst, hp, State.memRead, State.getV]

end

/-- A frame that keeps the halt latch is a frame that may change it. -/
theorem Frame.of_unhalted {may : Changes} {s t : State} (h : Frame { may with halt := false } s t) :
    Frame may s t := by
  obtain ⟨mem, v, i, pc, sp, stack, screen, keypad, dt, st, wait, halt, rnd⟩ := h
  exact ⟨mem, v, i, pc, sp, stack, screen, keypad, dt, st, wait, fun _ => halt rfl, rnd⟩

theorem Frame.halt_eq {may : Changes} {s t : State} (h : Frame may s t) (hh : may.halt = false) :
    t.halted = s.halted ∧ t.fault = s.fault := by
  obtain ⟨-, -, -, -, -, -, -, -, -, -, -, halt, -⟩ := h
  exact halt hh

theorem Frame.dt_eq {may : Changes} {s t : State} (h : Frame may s t) (hdt : may.dt = false) :
    t.dt = s.dt := by
  obtain ⟨-, -, -, -, -, -, -, -, dt, -, -, -, -⟩ := h
  exact dt hdt

theorem Frame.st_eq {may : Changes} {s t : State} (h : Frame may s t) (hst : may.st = false) :
    t.st = s.st := by
  obtain ⟨-, -, -, -, -, -, -, -, -, st, -, -, -⟩ := h
  exact st hst

end Sys2Proof.Safety

/-! ### The checked instructions, on both sides of their check -/

namespace Sys2Proof.Machine

section
variable (s : State)

theorem exec_ret_of_zero (h : s.sp.val = 0) :
    exec .ret s = .next (s.recordFault (.stackUnderflow s.pc (encode .ret))) := by
  simp only [exec, execRet, s.pop_of_zero h, raiseFault_eq]

theorem exec_ret_of_pos (h : s.sp.val ≠ 0) :
    exec .ret s = .next (applyDirective (.jump (s.stack[s.sp.val - 1]'(by omega)))
      { s with sp := ⟨s.sp.val - 1, by omega⟩ }) := by
  simp only [exec, execRet, s.pop_of_pos h, complete_eq]

theorem exec_call_of_full (nnn : Imm12) (h : s.sp.val = 16) :
    exec (.call nnn) s = .next (s.recordFault (.stackOverflow s.pc (encode (.call nnn)))) := by
  simp only [exec, execCall, s.push_of_full _ h, raiseFault_eq]

theorem exec_call_of_lt (nnn : Imm12) (h : s.sp.val < 16) :
    exec (.call nnn) s = .next (applyDirective (.jump (zext16 nnn))
      { s with stack := s.stack.set s.sp.val (s.pc + 2) h, sp := ⟨s.sp.val + 1, by omega⟩ }) := by
  simp only [exec, execCall, s.push_of_lt _ h, complete_eq]

/-- The screen and the collision that DRW leaves, once its sprite is read (R191). -/
def State.drawn (x y n : Nibble) : Screen × Bool :=
  drawRows (s.getV y).toNat (s.getV x).toNat (s.mem.readBytes s.i.toNat n.toNat) (s.screen, false)

theorem exec_drw_of_inRange (x y n : Nibble) (h : n.toNat = 0 ∨ s.i.toNat + n.toNat ≤ 4096) :
    exec (.drw x y n) s = .next (applyDirective .next
      ((s.setScreen (s.drawn x y n).1).setFlag (s.drawn x y n).2)) := by
  simp only [exec, execDrw, s.loadBytes_of_inRange _ _ h, complete_eq, State.drawn]

theorem exec_drw_of_outside (x y n : Nibble) (h0 : n.toNat ≠ 0) (h : 4096 < s.i.toNat + n.toNat) :
    exec (.drw x y n) s = .next (s.recordFault
      (.memIndexOutOfRange s.pc (encode (.drw x y n)) s.i n.toNat)) := by
  simp only [exec, execDrw, s.loadBytes_of_outside _ _ h0 h, raiseMemFault_eq]

theorem exec_ldB_of_inRange (x : Nibble) (h : s.i.toNat ≤ 4093) :
    exec (.ldB x) s = .next (applyDirective .next
      (s.setMem (s.mem.writeBytes s.i.toNat (bcdDigits (s.getV x))))) := by
  have fits : s.i.toNat + (bcdDigits (s.getV x)).length ≤ 4096 := by
    rw [length_bcdDigits]; omega
  simp only [exec, execLdB, s.storeBytes_of_inRange _ _ (.inr fits), complete_eq]

theorem exec_ldB_of_outside (x : Nibble) (h : 4093 < s.i.toNat) :
    exec (.ldB x) s = .next (s.recordFault
      (.memIndexOutOfRange s.pc (encode (.ldB x)) s.i 3)) := by
  have past : 4096 < s.i.toNat + (bcdDigits (s.getV x)).length := by
    rw [length_bcdDigits]; omega
  simp only [exec, execLdB, s.storeBytes_of_outside _ _ (by simp [length_bcdDigits]) past,
    raiseMemFault_eq]

theorem exec_store_of_inRange (x : Nibble) (h : s.i.toNat + x.toNat ≤ 4095) :
    exec (.store x) s = .next (applyDirective .next
      (s.setMem (s.mem.writeBytes s.i.toNat (s.getBlock x)))) := by
  have fits : s.i.toNat + (s.getBlock x).length ≤ 4096 := by
    rw [State.length_getBlock]; omega
  simp only [exec, execStore, s.storeBytes_of_inRange _ _ (.inr fits), complete_eq]

theorem exec_store_of_outside (x : Nibble) (h : 4095 < s.i.toNat + x.toNat) :
    exec (.store x) s = .next (s.recordFault
      (.memIndexOutOfRange s.pc (encode (.store x)) s.i (x.toNat + 1))) := by
  have past : 4096 < s.i.toNat + (s.getBlock x).length := by
    rw [State.length_getBlock]; omega
  simp only [exec, execStore, s.storeBytes_of_outside _ _ (by simp [State.length_getBlock]) past,
    raiseMemFault_eq]

theorem exec_load_of_inRange (x : Nibble) (h : s.i.toNat + x.toNat ≤ 4095) :
    exec (.load x) s = .next (applyDirective .next
      (s.setBlock (s.mem.readBytes s.i.toNat (x.toNat + 1)))) := by
  simp only [exec, execLoad, s.loadBytes_of_inRange s.i.toNat (x.toNat + 1) (by omega), complete_eq]

theorem exec_load_of_outside (x : Nibble) (h : 4095 < s.i.toNat + x.toNat) :
    exec (.load x) s = .next (s.recordFault
      (.memIndexOutOfRange s.pc (encode (.load x)) s.i (x.toNat + 1))) := by
  simp only [exec, execLoad, s.loadBytes_of_outside s.i.toNat (x.toNat + 1) (by omega) (by omega),
    raiseMemFault_eq]

theorem exec_skp_of_le (x : Nibble) (h : (s.getV x).toNat < 16) :
    exec (.skp x) s = skipIf (s.keypad[(s.getV x).toNat]'h) s := by
  simp only [exec, execSkp, s.key_of_le _ h]

theorem exec_skp_of_gt (x : Nibble) (h : 15 < (s.getV x).toNat) :
    exec (.skp x) s = .next (s.recordFault
      (.keyIndexOutOfRange s.pc (encode (.skp x)) (s.getV x))) := by
  simp only [exec, execSkp, (s.key_eq_none _).2 h, raiseFault_eq]

theorem exec_sknp_of_le (x : Nibble) (h : (s.getV x).toNat < 16) :
    exec (.sknp x) s = skipIf (!(s.keypad[(s.getV x).toNat]'h)) s := by
  simp only [exec, execSknp, s.key_of_le _ h]

theorem exec_sknp_of_gt (x : Nibble) (h : 15 < (s.getV x).toNat) :
    exec (.sknp x) s = .next (s.recordFault
      (.keyIndexOutOfRange s.pc (encode (.sknp x)) (s.getV x))) := by
  simp only [exec, execSknp, (s.key_eq_none _).2 h, raiseFault_eq]

end

end Sys2Proof.Machine

/-! ### An instruction raises the table's fault or keeps to its parts -/

namespace Sys2Proof.Safety

open Sys2Proof.Machine

/-- The instruction raises the fault that R211 gives it, and does nothing else. -/
def RaisesTableFault (i : Instr) (s : State) : Prop :=
  ∃ f, faultOf i s = some f ∧ exec i s = .next (s.recordFault f)

/-- R211 gives the instruction no fault, and it changes its own parts of the state, the halt latch not among
them. -/
def CompletesInFrame (i : Instr) (s : State) : Prop :=
  faultOf i s = none ∧ ∃ t, exec i s = .next t ∧ Frame { mayChange i with halt := false } s t

/-- An instruction with one check does the one or the other as the check finds. -/
theorem raises_or_completes_of_check {i : Instr} {s : State} {f : Fault} {c : Prop} [Decidable c]
    (check : faultOf i s = if c then some f else none)
    (raises : c → exec i s = .next (s.recordFault f))
    (completes : ¬c → ∃ t, exec i s = .next t ∧ Frame { mayChange i with halt := false } s t) :
    RaisesTableFault i s ∨ CompletesInFrame i s := by
  by_cases h : c
  · exact .inl ⟨f, check.trans (if_pos h), raises h⟩
  · exact .inr ⟨check.trans (if_neg h), completes h⟩

/-- What an instruction can do, said once: the frames of its updates chain up to its own. -/
theorem exec_raises_or_completes (i : Instr) (s : State) :
    RaisesTableFault i s ∨ CompletesInFrame i s := by
  cases i with
  | jp | seImm | sneImm | seReg | sneReg | jpV0 =>
    exact .inr ⟨rfl, _, rfl, frame_applyDirective rfl _ _⟩
  | cls => exact .inr ⟨rfl, _, rfl, (frame_setScreen s rfl _).trans (frame_applyDirective rfl _ _)⟩
  | ldImm | addImm | ldReg | orReg | andReg | xorReg | ldVxDt =>
    exact .inr ⟨rfl, _, rfl, (frame_setV rfl s _ _).trans (frame_applyDirective rfl _ _)⟩
  | addReg | sub | shr | subn | shl =>
    exact .inr ⟨rfl, _, rfl, (frame_setVFlag s rfl _ _ _).trans (frame_applyDirective rfl _ _)⟩
  | rnd =>
    exact .inr ⟨rfl, _, rfl, (frame_consumeRnd s rfl).trans
      ((frame_setV rfl _ _ _).trans (frame_applyDirective rfl _ _))⟩
  | ldI | ldF => exact .inr ⟨rfl, _, rfl, (frame_setI s rfl _).trans (frame_applyDirective rfl _ _)⟩
  | addI =>
    exact .inr ⟨rfl, _, rfl, (frame_setI s rfl _).trans
      ((frame_setFlag _ rfl _).trans (frame_applyDirective rfl _ _))⟩
  | ldVxK x =>
    exact .inr ⟨rfl, _, exec_ldVxK x s, (frame_applyDirective rfl _ s).trans (frame_enterWait rfl _ x)⟩
  | ldDtVx => exact .inr ⟨rfl, _, rfl, (frame_setDt s rfl _).trans (frame_applyDirective rfl _ _)⟩
  | ldStVx => exact .inr ⟨rfl, _, rfl, (frame_setSt s rfl _).trans (frame_applyDirective rfl _ _)⟩
  | ret =>
    exact raises_or_completes_of_check rfl (exec_ret_of_zero s) fun h => ⟨_, exec_ret_of_pos s h,
      (frame_setSp s rfl _).trans (frame_applyDirective rfl _ _)⟩
  | call nnn =>
    exact raises_or_completes_of_check rfl (exec_call_of_full s nnn) fun h =>
      ⟨_, exec_call_of_lt s nnn (by omega),
        (frame_setStack s rfl rfl _ _).trans (frame_applyDirective rfl _ _)⟩
  | drw x y n =>
    exact raises_or_completes_of_check rfl
      (fun h => exec_drw_of_outside s x y n (by omega) (by omega)) fun h =>
      ⟨_, exec_drw_of_inRange s x y n (by omega), (frame_setScreen s rfl _).trans
        ((frame_setFlag _ rfl _).trans (frame_applyDirective rfl _ _))⟩
  | ldB x =>
    exact raises_or_completes_of_check rfl (fun h => exec_ldB_of_outside s x (by omega)) fun h =>
      ⟨_, exec_ldB_of_inRange s x (by omega),
        (frame_setMem s rfl _).trans (frame_applyDirective rfl _ _)⟩
  | store x =>
    exact raises_or_completes_of_check rfl (exec_store_of_outside s x) fun h =>
      ⟨_, exec_store_of_inRange s x (by omega),
        (frame_setMem s rfl _).trans (frame_applyDirective rfl _ _)⟩
  | load x =>
    exact raises_or_completes_of_check rfl (exec_load_of_outside s x) fun h =>
      ⟨_, exec_load_of_inRange s x (by omega),
        (frame_setBlock s rfl _).trans (frame_applyDirective rfl _ _)⟩
  | skp x =>
    exact raises_or_completes_of_check rfl (exec_skp_of_gt s x) fun h =>
      ⟨_, exec_skp_of_le s x (by omega), frame_applyDirective rfl _ s⟩
  | sknp x =>
    exact raises_or_completes_of_check rfl (exec_sknp_of_gt s x) fun h =>
      ⟨_, exec_sknp_of_le s x (by omega), frame_applyDirective rfl _ s⟩

theorem exec_of_faultOf {i : Instr} {s : State} {f : Fault} (h : faultOf i s = some f) :
    exec i s = .next (s.recordFault f) := by
  rcases exec_raises_or_completes i s with ⟨f', raised, ran⟩ | ⟨none, -⟩
  · cases raised.symm.trans h
    exact ran
  · cases none.symm.trans h

theorem exec_of_no_fault {i : Instr} {s : State} (h : faultOf i s = none) :
    ∃ t, exec i s = .next t ∧ Frame { mayChange i with halt := false } s t := by
  rcases exec_raises_or_completes i s with ⟨f, raised, -⟩ | ⟨-, completed⟩
  · cases raised.symm.trans h
  · exact completed

theorem mayChange_halt_of_faultOf {i : Instr} {s : State} {f : Fault} (h : faultOf i s = some f) :
    (mayChange i).halt = true := by
  cases i with
  | ret | call | drw | skp | sknp | ldB | store | load => rfl
  | cls | jp | seImm | sneImm | seReg | ldImm | addImm | ldReg | orReg | andReg | xorReg | addReg | sub
  | shr | subn | shl | sneReg | ldI | jpV0 | rnd | ldVxDt | ldVxK | ldDtVx | ldStVx | addI | ldF =>
    cases h

theorem exec_frame {i : Instr} {s t : State} (h : exec i s = .next t) : Frame (mayChange i) s t := by
  rcases exec_raises_or_completes i s with ⟨f, raised, ran⟩ | ⟨-, u, ran, frame⟩
  · cases ran.symm.trans h
    exact frame_recordFault s (mayChange_halt_of_faultOf raised) f
  · cases ran.symm.trans h
    exact frame.of_unhalted

theorem exec_answers_next (i : Instr) (s : State) : ∃ t, exec i s = .next t := by
  rcases exec_raises_or_completes i s with ⟨f, -, ran⟩ | ⟨-, t, ran, -⟩
  · exact ⟨_, ran⟩
  · exact ⟨t, ran⟩

end Sys2Proof.Safety

end

/-!
PROOFS. The invariant of every step and of every run of host operations (spec/10_state.md R25, R43).
-/

section

namespace Sys2Proof.Safety

open Sys2Proof.Machine

/-! ### The invariant without its bound on `pc`, for the updates a handler makes before phase 5 -/

/-- `Inv` of a machine that is not halted, all but the bound on `pc`. -/
def SoundParts (s : State) : Prop :=
  s.mem.wf = true ∧ (∀ k : Fin 16, s.stack[k].toNat ≤ 4096) ∧ s.halted = false ∧ s.fault = none

theorem SoundParts.of_inv {s : State} (h : Inv s) (hh : s.halted = false) : SoundParts s := by
  obtain ⟨mem, -, stack, latch, -⟩ := h
  exact ⟨mem, stack, hh, Option.not_isSome_iff_eq_none.1 (by simp [← latch, hh])⟩

theorem SoundParts.inv {s : State} (h : SoundParts s) (hp : s.pc.toNat ≤ 0x10FE) : Inv s := by
  obtain ⟨mem, stack, halted, fault⟩ := h
  exact ⟨mem, hp, stack, by simp [halted, fault], by simp [halted]⟩

theorem SoundParts.store {s : State} (h : SoundParts s) {base : Nat} {bytes : List Byte}
    (fits : base + bytes.length ≤ 4096) : SoundParts (s.setMem (s.mem.writeBytes base bytes)) := by
  obtain ⟨mem, rest⟩ := h
  exact ⟨Memory.wf_writeBytes _ _ _ mem fits, rest⟩

theorem SoundParts.push {s : State} (h : SoundParts s) {a : Word} (ha : a.toNat ≤ 4096)
    (hsp : s.sp.val < 16) :
    SoundParts { s with stack := s.stack.set s.sp.val a hsp, sp := ⟨s.sp.val + 1, by omega⟩ } := by
  obtain ⟨mem, stack, rest⟩ := h
  refine ⟨mem, fun k => ?_, rest⟩
  simp only [Fin.getElem_fin, Vector.getElem_set]
  split
  · exact ha
  · exact stack k

theorem SoundParts.inv_recordFault {s : State} (h : SoundParts s) (ha : s.awaiting = false)
    (hp : s.pc.toNat ≤ 0x10FE) (f : Fault) : Inv (s.recordFault f) := by
  obtain ⟨mem, stack, -, -⟩ := h
  exact ⟨mem, hp, stack, rfl, by simp [ha]⟩

/-! ### Every ending of a handler meets the invariant -/

/-- Where the outcome is a next state, that state meets the invariant. -/
def EndsInInv (r : Result) : Prop := ∀ t, r = .next t → Inv t

theorem EndsInInv.next {t : State} (h : Inv t) : EndsInInv (.next t) := by
  rintro _ ⟨⟩
  exact h

theorem EndsInInv.complete {t : State} {d : Directive} (h : SoundParts t)
    (hp : (applyDirective d t).pc.toNat ≤ 0x10FE) : EndsInInv (complete d t) := by
  have sound : SoundParts (applyDirective d t) := by simpa [SoundParts] using h
  exact EndsInInv.next (sound.inv hp)

/-- A directive that stays at the fetched instruction or goes past it leaves `pc` in its bound (R25). -/
theorem EndsInInv.complete_next {t : State} (h : SoundParts t) (hp : t.pc.toNat ≤ 4094) :
    EndsInInv (Machine.complete .next t) :=
  .complete h (by rw [applyDirective_next_pc]; bv_omega)

theorem EndsInInv.skipIf {t : State} (c : Bool) (h : SoundParts t) (hp : t.pc.toNat ≤ 4094) :
    EndsInInv (skipIf c t) := by
  cases c with
  | false => exact .complete_next h hp
  | true => exact .complete h (by simp only [if_true, applyDirective_skip_pc]; bv_omega)

theorem zext16_le (nnn : Imm12) : (zext16 nnn).toNat ≤ 4095 := by
  rw [zext16_toNat_imm12]
  omega

/-- R150, D22: the sum of the operands does not wrap. -/
theorem zext16_add_toNat (nnn : Imm12) (b : Byte) :
    (zext16 nnn + zext16 b).toNat = nnn.toNat + b.toNat := by
  rw [BitVec.toNat_add, zext16_toNat_imm12, zext16_toNat_byte]
  omega

theorem jpV0_target_le (nnn : Imm12) (b : Byte) : (zext16 nnn + zext16 b).toNat ≤ 0x10FE := by
  rw [zext16_add_toNat]
  omega

/-- Where R211 gives an instruction with one check no fault, the check found nothing. -/
theorem check_fails {c : Prop} [Decidable c] {f : Fault} (h : (if c then some f else none) = none) :
    ¬c := by
  simpa using h

/-- A handler's updates keep the sound parts; only a store writes memory, only CALL the stack, and only the
jumps, CALL and RET leave `pc` elsewhere than behind the instruction. -/
theorem exec_endsInInv (i : Instr) {s : State} (h : SoundParts s) (ha : s.awaiting = false)
    (hp : s.pc.toNat ≤ 4094) : EndsInInv (exec i s) := by
  rcases exec_raises_or_completes i s with ⟨f, -, raised⟩ | ⟨unfaulted, -⟩
  · rw [raised]
    exact .next (h.inv_recordFault ha (by omega) f)
  cases i with
  | cls | ldImm | addImm | ldReg | orReg | andReg | xorReg | addReg | sub | shr | subn | shl | ldI | rnd
  | ldVxDt | ldDtVx | ldStVx | addI | ldF =>
    exact .complete_next h hp
  | seImm | sneImm | seReg | sneReg => exact .skipIf _ h hp
  | jp nnn => exact .complete h ((zext16_le nnn).trans (by decide))
  | jpV0 nnn => exact .complete h (jpV0_target_le nnn _)
  | ldVxK =>
    refine .next (SoundParts.inv h ?_)
    rw [State.enterWait_pc, applyDirective_next_pc]
    bv_omega
  | ret =>
    obtain ⟨-, stack, -⟩ := id h
    rw [exec_ret_of_pos s (check_fails unfaulted)]
    exact .complete h ((stack ⟨s.sp.val - 1, by omega⟩).trans (by decide))
  | call nnn =>
    have fits := check_fails unfaulted
    rw [exec_call_of_lt s nnn (by omega)]
    exact .complete (h.push (by bv_omega) _) ((zext16_le nnn).trans (by decide))
  | drw x y n =>
    have fits := check_fails unfaulted
    rw [exec_drw_of_inRange s x y n (by omega)]
    exact .complete_next h hp
  | ldB x =>
    have fits := check_fails unfaulted
    rw [exec_ldB_of_inRange s x (by omega)]
    exact .complete_next (h.store (by rw [length_bcdDigits]; omega)) hp
  | store x =>
    have fits := check_fails unfaulted
    rw [exec_store_of_inRange s x (by omega)]
    exact .complete_next (h.store (by rw [State.length_getBlock]; omega)) hp
  | load x =>
    have fits := check_fails unfaulted
    rw [exec_load_of_inRange s x (by omega)]
    exact .complete_next h hp
  | skp x =>
    have fits := check_fails unfaulted
    rw [exec_skp_of_le s x (by omega)]
    exact .skipIf _ h hp
  | sknp x =>
    have fits := check_fails unfaulted
    rw [exec_sknp_of_le s x (by omega)]
    exact .skipIf _ h hp

theorem execVariant_endsInInv (v : Variant) {s : State} (h : SoundParts s) (ha : s.awaiting = false)
    (hp : s.pc.toNat ≤ 4094) : EndsInInv (execVariant v s) := by
  cases v with
  | instr i => exact exec_endsInInv i h ha hp
  | unimplemented w => exact .complete_next h hp

theorem awaitingStep_endsInInv {s : State} (h : Inv s) (hh : s.halted = false) :
    EndsInInv (awaitingStep s) := by
  rcases awaitingStep_cases s with ⟨k, -, -, captured⟩ | ⟨-, nothing⟩
  · obtain ⟨mem, pc, stack, latch, -⟩ := h
    rw [captured]
    exact .next ⟨mem, pc, stack, latch, by simp [hh]⟩
  · rw [nothing]
    exact .next h

theorem step_endsInInv {s : State} (h : Inv s) : EndsInInv (step s) := by
  -- The invariant does not speak of the timers, so the countdown keeps it.
  have counted : s.halted = false → SoundParts s.tickTimers := SoundParts.of_inv h
  rcases step_cases s with
    ⟨-, halted⟩ | ⟨hh, -, awaiting⟩ | ⟨hh, ha, -, faulted⟩ | ⟨hh, ha, hp, w, -, ran⟩
  · rw [halted]
    exact .next h
  · rw [awaiting]
    exact awaitingStep_endsInInv h hh
  · obtain ⟨-, pc, -⟩ := h
    rw [faulted]
    exact .next ((counted hh).inv_recordFault ha pc _)
  · rw [ran]
    exact execVariant_endsInInv (decode w) (counted hh) ha hp

/-! ### Every step answers a next state (R131, R213) -/

theorem step_answers_next (s : State) : ∃ t, step s = .next t := by
  rcases step_cases s with
    ⟨-, halted⟩ | ⟨-, -, awaiting⟩ | ⟨-, -, -, faulted⟩ | ⟨-, -, -, w, -, ran⟩
  · exact ⟨_, halted⟩
  · rcases awaitingStep_cases s with ⟨k, -, -, captured⟩ | ⟨-, nothing⟩
    · exact ⟨_, awaiting.trans captured⟩
    · exact ⟨_, awaiting.trans nothing⟩
  · exact ⟨_, faulted⟩
  · rw [ran]
    cases decode w with
    | instr i => exact exec_answers_next i s.tickTimers
    | unimplemented u => exact ⟨_, rfl⟩

/-! ### The host's operations (R226) -/

theorem inv_reset : Inv State.reset := by decide

theorem applyOp_keepsInv (op : HostOp) {s : State} (h : Inv s) :
    ∃ t, applyOp op s = .next t ∧ Inv t := by
  cases op with
  | reset => exact ⟨_, rfl, inv_reset⟩
  | load bytes =>
    obtain ⟨mem, rest⟩ := h
    exact ⟨s.loadProgram bytes, rfl, Memory.wf_loadFrom _ _ _ mem, rest⟩
  | setKeypad keys => exact ⟨s.setKeypad keys, rfl, h⟩
  | step =>
    obtain ⟨t, stepped⟩ := step_answers_next s
    exact ⟨t, stepped, step_endsInInv h t stepped⟩

theorem runOps_keepsInv (ops : List HostOp) {s : State} (h : Inv s) :
    ∃ t, runOps ops s = .next t ∧ Inv t := by
  induction ops generalizing s with
  | nil => exact ⟨s, rfl, h⟩
  | cons op ops ih =>
    obtain ⟨t, applied, ht⟩ := applyOp_keepsInv op h
    obtain ⟨u, ran, hu⟩ := ih ht
    exact ⟨u, by simp only [runOps, applied, ran], hu⟩

end Sys2Proof.Safety

namespace Sys2Proof.Proofs

open Sys2Proof.Machine Sys2Proof.Safety

/-- Settles O15: every ending of each kind of step meets the invariant. -/
theorem everyStepKeepsTheInvariant : Obligations.EveryStepKeepsTheInvariant := by
  unfold Obligations.EveryStepKeepsTheInvariant
  intro s t inv stepped
  exact step_endsInInv inv t stepped

/-- Settles O17, by induction on the list of operations. -/
theorem hostRunsKeepTheInvariant : Obligations.HostRunsKeepTheInvariant := by
  unfold Obligations.HostRunsKeepTheInvariant
  intro ops s inv
  exact runOps_keepsInv ops inv

/-- Settles O16: the state after reset is closed data. -/
theorem resetMeetsTheInvariant : Obligations.ResetMeetsTheInvariant := inv_reset

/-- Settles O14: a step is one of four things, and an instruction faults or completes. -/
theorem everyStepAnswersNext : Obligations.EveryStepAnswersNext := by
  unfold Obligations.EveryStepAnswersNext
  exact ⟨step_answers_next, exec_answers_next⟩

end Sys2Proof.Proofs

end

/-!
PROOFS. The rules of the whole machine: the fetch, the kinds of step and their outputs, the timers, reset, and
what an instruction may change (spec/40_cycle_and_dispatch.md, spec/60_exceptions.md, spec/10_state.md).
-/

section

namespace Sys2Proof.Machine

open Sys2Proof.Safety

/-! ### The fetch (R62, R122) -/

theorem State.fetch16_eq_some (s : State) (a : Nat) (w : Word) :
    s.fetch16 a = some w ↔ a ≤ 4094 ∧ wordOfBytes (s.mem.read a) (s.mem.read (a + 1)) = w := by
  rcases Nat.lt_or_ge 4094 a with h | h
  · simp [s.fetch16_of_gt a h, h]
  · simp [s.fetch16_of_le a h, h]

theorem State.fetch16_eq_none (s : State) (a : Nat) : s.fetch16 a = none ↔ 4094 < a := by
  rcases Nat.lt_or_ge 4094 a with h | h
  · simp [s.fetch16_of_gt a h, h]
  · simp [s.fetch16_of_le a h, h]

theorem fetched_eq_of_fetch {s : State} {w : Word} (h : s.fetch16 s.pc.toNat = some w) :
    fetched s = some (decode w) := by
  simp [fetched, h]

theorem fetched_eq_none_of_gt {s : State} (h : 4094 < s.pc.toNat) : fetched s = none := by
  simp [fetched, (s.fetch16_eq_none _).2 h]

theorem decode_of_decodeBytes {hi lo : Byte} {v : Variant} {rest : List Byte}
    (h : decodeBytes [hi, lo] = some (v, rest)) : decode (wordOfBytes hi lo) = v := by
  simp only [decodeBytes, Option.some.injEq, Prod.mk.injEq] at h
  exact h.1

theorem decode_of_decodeTableWord {nbits w : Nat} {i : Instr} (h : decodeTableWord nbits w = some i) :
    decode (tableWord nbits w) = .instr i := by
  have bytes := decodeBytes_bytesOfWord (tableWord nbits w) []
  rw [List.append_nil] at bytes
  cases decoded : decode (tableWord nbits w) with
  | instr j => simpa [decodeTableWord, bytes, decoded] using h
  | unimplemented u => simp [decodeTableWord, bytes, decoded] at h

/-- A RUNNING step faults in its fetch, or runs the variant it fetched. -/
theorem runningStep_cases {s : State} (hr : Running s) :
    (4094 < s.pc.toNat ∧ step s = .next (s.tickTimers.recordFault (.pcOutOfRange s.pc))) ∨
    (s.pc.toNat ≤ 4094 ∧ ∃ w, s.fetch16 s.pc.toNat = some w ∧ fetched s = some (decode w) ∧
      step s = execVariant (decode w) s.tickTimers) := by
  obtain ⟨hh, ha⟩ := hr
  rcases step_cases s with ⟨h, -⟩ | ⟨-, h, -⟩ | ⟨-, -, hp, faulted⟩ | ⟨-, -, hp, w, fetch, ran⟩
  · cases hh.symm.trans h
  · cases ha.symm.trans h
  · exact .inl ⟨hp, faulted⟩
  · exact .inr ⟨hp, w, fetch, fetched_eq_of_fetch fetch, ran⟩

/-! ### The placed word (log entry 9) -/

/-- Where `placeWord` puts a word: at `pc`, or at the program base when nothing is fetched at `pc`. -/
theorem placeWord_pc_le (s : State) (w : Word) : (placeWord s w).pc.toNat ≤ 4094 := by
  show (if s.pc.toNat ≤ 4094 then s.pc else Config.resetPc).toNat ≤ 4094
  split
  · next h => exact h
  · decide

theorem placeWord_mem (s : State) (w : Word) :
    (placeWord s w).mem = s.mem.writeBytes (placeWord s w).pc.toNat (bytesOfWord w) := rfl

theorem fetch16_placeWord (s : State) (w : Word) :
    (placeWord s w).fetch16 (placeWord s w).pc.toNat = some w := by
  refine (State.fetch16_eq_some _ _ _).2 ⟨placeWord_pc_le s w, ?_⟩
  have word := wordOfBytes_bytesOfWord w
  simpa [placeWord_mem, Memory.read_writeBytes, bytesOfWord] using word

theorem step_placeWord (s : State) {w : Word} {i : Instr} (h : decode w = .instr i) :
    step (placeWord s w) = exec i (placeWord s w).tickTimers := by
  have fetch := fetched_eq_of_fetch (fetch16_placeWord s w)
  rw [h] at fetch
  exact step_of_fetched _ _ ⟨rfl, rfl⟩ fetch

/-! ### The outputs of a step (R213, R216) -/

theorem running_of_stepDiagnostic {s : State} {d : Diagnostic} (h : stepDiagnostic s = some d) :
    Running s := by
  constructor
  · by_contra halted
    rw [stepDiagnostic_of_halted s (by simpa using halted)] at h
    cases h
  · by_contra awaiting
    rw [stepDiagnostic_of_awaiting s (by simpa using awaiting)] at h
    cases h

/-- A step reports a word only where it fetches one that R99 lists. -/
theorem unimplemented_of_stepDiagnostic {s : State} {d : Diagnostic} (h : stepDiagnostic s = some d) :
    d.pc = s.pc ∧ s.fetch16 s.pc.toNat = some d.word ∧ isUnimplementedWord d.word = true := by
  obtain ⟨hh, ha⟩ := running_of_stepDiagnostic h
  cases fetch : s.fetch16 s.pc.toNat with
  | none =>
    rw [stepDiagnostic_of_no_fetch s fetch] at h
    cases h
  | some w =>
    cases decoded : decode w with
    | instr i =>
      rw [stepDiagnostic_of_instr s w i fetch decoded] at h
      cases h
    | unimplemented u =>
      rw [stepDiagnostic_of_unimplemented s w u hh ha fetch decoded] at h
      obtain rfl := eq_of_decode_unimplemented decoded
      cases h
      exact ⟨rfl, rfl, isUnimplementedWord_of_decode decoded⟩

theorem faultOf_tickTimers (i : Instr) (s : State) : faultOf i s.tickTimers = faultOf i s := rfl

/-- A RUNNING step that does not halt the machine, or that halts it precisely: for the fetch check, or for the
check of the decoded instruction. -/
theorem runningStep_halts_or_not {s : State} (hr : Running s) :
    (4094 < s.pc.toNat ∧ step s = .next (s.tickTimers.recordFault (.pcOutOfRange s.pc))) ∨
    (s.pc.toNat ≤ 4094 ∧ ∃ w i f, s.fetch16 s.pc.toNat = some w ∧ decode w = .instr i ∧
      faultOf i s = some f ∧ step s = .next (s.tickTimers.recordFault f)) ∨
    ∃ t, step s = .next t ∧ t.halted = false := by
  rcases runningStep_cases hr with fetchFault | ⟨hp, w, fetch, -, ran⟩
  · exact .inl fetchFault
  cases decoded : decode w with
  | unimplemented u =>
    rw [decoded] at ran
    exact .inr (.inr ⟨_, ran, hr.1⟩)
  | instr i =>
    rw [decoded] at ran
    rcases exec_raises_or_completes i s.tickTimers with ⟨f, raised, halted⟩ | ⟨-, t, completed, frame⟩
    · exact .inr (.inl ⟨hp, w, i, f, fetch, decoded, raised, ran.trans halted⟩)
    · exact .inr (.inr ⟨t, ran.trans completed, (frame.halt_eq rfl).1.trans hr.1⟩)

theorem step_not_halted_of_awaiting {s t : State} (hh : s.halted = false) (ha : s.awaiting = true)
    (h : step s = .next t) : t.halted = false := by
  rw [step_of_awaiting s hh ha] at h
  rcases awaitingStep_cases s with ⟨k, -, -, captured⟩ | ⟨-, nothing⟩
  · cases captured.symm.trans h
    exact hh
  · cases nothing.symm.trans h
    exact hh

/-! ### Timers (R127) -/

/-- Each timer stays, or the instruction is the one that writes it. -/
theorem exec_timers {i : Instr} {s t : State} (h : exec i s = .next t) :
    (t.dt = s.dt ∨ ∃ x, i = .ldDtVx x) ∧ (t.st = s.st ∨ ∃ x, i = .ldStVx x) := by
  have frame := exec_frame h
  cases i with
  | ldDtVx x => exact ⟨.inr ⟨x, rfl⟩, .inl (frame.st_eq rfl)⟩
  | ldStVx x => exact ⟨.inl (frame.dt_eq rfl), .inr ⟨x, rfl⟩⟩
  | _ => exact ⟨.inl (frame.dt_eq rfl), .inl (frame.st_eq rfl)⟩

/-- Each timer counts down in a RUNNING step, or the fetched instruction is the one that writes it. -/
theorem runningStep_timers {s t : State} (hr : Running s) (h : step s = .next t) :
    (t.dt = countDown s.dt ∨ ∃ x, fetched s = some (.instr (.ldDtVx x))) ∧
    (t.st = countDown s.st ∨ ∃ x, fetched s = some (.instr (.ldStVx x))) := by
  rcases runningStep_cases hr with ⟨-, faulted⟩ | ⟨-, w, -, fetch, ran⟩
  · cases faulted.symm.trans h
    exact ⟨.inl rfl, .inl rfl⟩
  rw [fetch]
  cases decoded : decode w with
  | unimplemented u =>
    rw [decoded] at ran
    cases ran.symm.trans h
    exact ⟨.inl rfl, .inl rfl⟩
  | instr i =>
    rw [decoded] at ran
    simpa using exec_timers (ran.symm.trans h)

theorem runningStep_dt {s t : State} (hr : Running s) (h : step s = .next t)
    (unwritten : ∀ x, fetched s ≠ some (.instr (.ldDtVx x))) : t.dt.toNat = s.dt.toNat - 1 := by
  rcases (runningStep_timers hr h).1 with counted | ⟨x, written⟩
  · rw [counted, countDown_toNat]
  · exact absurd written (unwritten x)

theorem runningStep_st {s t : State} (hr : Running s) (h : step s = .next t)
    (unwritten : ∀ x, fetched s ≠ some (.instr (.ldStVx x))) : t.st.toNat = s.st.toNat - 1 := by
  rcases (runningStep_timers hr h).2 with counted | ⟨x, written⟩
  · rw [counted, countDown_toNat]
  · exact absurd written (unwritten x)

theorem step_keepsTimers_of_not_running {s t : State} (hr : ¬Running s) (h : step s = .next t) :
    t.dt = s.dt ∧ t.st = s.st := by
  rcases step_cases s with ⟨-, halted⟩ | ⟨-, -, awaiting⟩ | ⟨hh, ha, -⟩ | ⟨hh, ha, -⟩
  · cases halted.symm.trans h
    exact ⟨rfl, rfl⟩
  · rw [awaiting] at h
    rcases awaitingStep_cases s with ⟨k, -, -, captured⟩ | ⟨-, nothing⟩
    · cases captured.symm.trans h
      exact ⟨rfl, rfl⟩
    · cases nothing.symm.trans h
      exact ⟨rfl, rfl⟩
  · exact absurd ⟨hh, ha⟩ hr
  · exact absurd ⟨hh, ha⟩ hr

/-! ### Registers (R21, R23) -/

theorem exec_getV {i : Instr} {s t : State} {k : Nibble} (h : exec i s = .next t)
    (hk : mayWriteV i k = false) : t.getV k = s.getV k := by
  have frame := exec_frame h
  rcases exec_raises_or_completes i s with ⟨f, -, raised⟩ | ⟨unfaulted, -⟩
  · cases raised.symm.trans h
    exact State.getV_recordFault s f k
  cases i with
  | cls | ret | jp | call | seImm | sneImm | seReg | sneReg | ldI | jpV0 | skp | sknp | ldVxK | ldDtVx
  | ldStVx | ldF | ldB | store =>
    obtain ⟨-, v, -⟩ := frame
    exact v rfl k
  | ldImm x | addImm x | ldReg x | orReg x | andReg x | xorReg x | ldVxDt x =>
    have other : k ≠ x := by simpa [mayWriteV] using hk
    cases h
    rw [State.getV_applyDirective, State.getV_setV, if_neg other]
  | rnd x =>
    have other : k ≠ x := by simpa [mayWriteV] using hk
    cases h
    rw [State.getV_applyDirective, State.getV_setV, if_neg other, State.getV_consumeRnd]
  | addReg x | sub x | shr x | subn x | shl x =>
    have other : k ≠ x ∧ k ≠ vf := by simpa [mayWriteV, vf] using hk
    cases h
    rw [State.getV_applyDirective, State.getV_setVFlag, if_neg other.2, if_neg other.1]
  | addI x =>
    have other : k ≠ vf := by simpa [mayWriteV, vf] using hk
    cases h
    rw [State.getV_applyDirective, State.getV_setFlag, if_neg other, State.getV_setI]
  | drw x y n =>
    have fits := check_fails unfaulted
    have other : k ≠ vf := by simpa [mayWriteV, vf] using hk
    cases (exec_drw_of_inRange s x y n (by omega)).symm.trans h
    rw [State.getV_applyDirective, State.getV_setFlag, if_neg other, State.getV_setScreen]
  | load x =>
    have fits := check_fails unfaulted
    have above : ¬ k.toNat ≤ x.toNat := by simpa [mayWriteV] using hk
    cases (exec_load_of_inRange s x (by omega)).symm.trans h
    rw [State.getV_applyDirective, State.getV_setBlock, List.getD_eq_default]
    rw [Memory.length_readBytes]
    omega

/-! ### Bytes outside a store (R183, R184) -/

theorem State.memRead_setMem_outside (s : State) (base : Nat) (bytes : List Byte) (a : Nat)
    (h : a < base ∨ base + bytes.length ≤ a) :
    (s.setMem (s.mem.writeBytes base bytes)).memRead a = s.memRead a := by
  simp only [State.memRead, State.setMem_mem, Memory.read_writeBytes_outside _ _ _ _ h]

theorem exec_ldB_outside {x : Nibble} {s t : State} {a : Nat} (h : exec (.ldB x) s = .next t)
    (ha : a < s.i.toNat ∨ s.i.toNat + 3 ≤ a) : t.memRead a = s.memRead a := by
  rcases Nat.lt_or_ge 4093 s.i.toNat with hi | hi
  · cases (exec_ldB_of_outside s x hi).symm.trans h
    rfl
  · cases (exec_ldB_of_inRange s x hi).symm.trans h
    exact s.memRead_setMem_outside _ _ a (by rwa [length_bcdDigits])

theorem exec_store_outside {x : Nibble} {s t : State} {a : Nat} (h : exec (.store x) s = .next t)
    (ha : a < s.i.toNat ∨ s.i.toNat + (x.toNat + 1) ≤ a) : t.memRead a = s.memRead a := by
  rcases Nat.lt_or_ge 4095 (s.i.toNat + x.toNat) with hi | hi
  · cases (exec_store_of_outside s x hi).symm.trans h
    rfl
  · cases (exec_store_of_inRange s x hi).symm.trans h
    exact s.memRead_setMem_outside _ _ a (by rwa [State.length_getBlock])

/-! ### Reset memory (R42) -/

theorem Memory.unlisted_of_le {a : Nat} (h : 80 ≤ a) : Memory.unlisted a = 0 :=
  List.getD_eq_default _ _ h

theorem State.memRead_reset (a : Nat) : State.reset.memRead a =
    if a < 80 then some (font.getD a 0) else if a ≤ 4095 then some 0 else none := by
  have unlisted : State.reset.mem.read a = Memory.unlisted a := Memory.read_nil a
  simp only [State.memRead, unlisted]
  by_cases low : a < 80
  · rw [if_pos low, if_pos (by omega)]
    rfl
  · rw [if_neg low, Memory.unlisted_of_le (by omega)]

theorem State.memRead_launch (bytes : List Byte) (a : Nat) : (launch bytes).memRead a =
    if a < 80 then some (font.getD a 0)
    else if 4095 < a then none
    else if a < 0x200 then some 0
    else some (bytes.getD (a - 0x200) 0) := by
  have image : (launch bytes).mem.read a = if 0x200 ≤ a ∧ a ≤ 4095
      then bytes.getD (a - 0x200) (Memory.unlisted a) else Memory.unlisted a :=
    Memory.read_loadFrom _ _ bytes a
  simp only [State.memRead, image]
  by_cases low : a < 80
  · rw [if_pos (by omega), if_neg (by omega), if_pos low]
    rfl
  rw [if_neg low, Memory.unlisted_of_le (by omega)]
  rcases Nat.lt_or_ge 4095 a with above | inside
  · rw [if_pos above, if_neg (by omega)]
  by_cases below : a < 0x200
  · simp [below, inside, show ¬4095 < a by omega, show ¬512 ≤ a by omega]
  · simp [below, inside, show ¬4095 < a by omega, show 512 ≤ a by omega]

end Sys2Proof.Machine

namespace Sys2Proof.Proofs

open Sys2Proof.Machine Sys2Proof.Safety

/-- Settles O6: the two bytes at `pc` are the fetched word, and the countdown is written out. -/
theorem stepRunsTheDecodedInstruction : Obligations.StepRunsTheDecodedInstruction := by
  unfold Obligations.StepRunsTheDecodedInstruction
  intro s i hr hp _ bytes
  have fetch := fetched_eq_of_fetch (s.fetch16_of_le _ hp)
  rw [decode_of_decodeBytes bytes] at fetch
  exact step_of_fetched s _ hr fetch

/-- Settles O7: the placed word is fetched, because it stands at the new `pc`. -/
theorem placedWordIsRunNext : Obligations.PlacedWordIsRunNext := by
  unfold Obligations.PlacedWordIsRunNext
  intro s w i h
  exact step_placeWord s (decode_of_decodeTableWord h)

/-- Settles O8: UNIMPLEMENTED(w) is phase 5 alone, and the report is made where such a word is fetched. -/
theorem unimplementedWordIsReportedNoOp : Obligations.UnimplementedWordIsReportedNoOp := by
  unfold Obligations.UnimplementedWordIsReportedNoOp
  constructor
  · intro s w hr fetch listed
    have decoded := (isUnimplementedWord_iff w).1 listed
    have variant := fetched_eq_of_fetch fetch
    rw [decoded] at variant
    have ran : step s = .next (applyDirective .next s.tickTimers) := step_of_fetched s _ hr variant
    refine ⟨⟨_, ran, rfl, ?_, countDown_toNat _, countDown_toNat _⟩, ?_⟩
    · exact (frame_tickTimers rfl rfl s).trans (frame_applyDirective rfl _ _)
    · rw [stepOutput_of_step s _ ran, stepDiagnostic_of_unimplemented s w w hr.1 hr.2 fetch decoded,
        faultReport_of_not_halted (applyDirective .next s.tickTimers) hr.1]
  · intro s d h
    exact ⟨running_of_stepDiagnostic h, unimplemented_of_stepDiagnostic h⟩

/-- Settles O9: both bytes of a word at `a` lie in memory exactly when `a` is at most 4094. -/
theorem fetchIsBigEndianUpTo4094 : Obligations.FetchIsBigEndianUpTo4094 := by
  unfold Obligations.FetchIsBigEndianUpTo4094
  intro s a
  exact ⟨fun h => ⟨_, s.fetch16_of_le a h, wordOfBytes_toNat _ _⟩, fun h => s.fetch16_of_gt a h⟩

/-- Settles O10: nothing is fetched, so the step is the countdown and the fault record. -/
theorem pcOutOfRangeHalts : Obligations.PcOutOfRangeHalts := by
  unfold Obligations.PcOutOfRangeHalts
  intro s hr hp
  have noFetch := s.fetch16_of_gt _ hp
  have faulted := (step_of_running s hr.1 hr.2).trans (runningStep_of_no_fetch s noFetch)
  refine ⟨⟨_, faulted, rfl, rfl, ?_, countDown_toNat _, countDown_toNat _⟩, ?_⟩
  · exact (frame_tickTimers rfl rfl s).trans (frame_recordFault _ rfl _)
  · rw [stepOutput_of_step s _ faulted, stepDiagnostic_of_no_fetch s noFetch, faultReport_recordFault]

/-- Settles O11: the step answers the same state, whose record is what the host sees. -/
theorem haltedStepChangesNothing : Obligations.HaltedStepChangesNothing := by
  unfold Obligations.HaltedStepChangesNothing
  intro s hh
  have stays := step_of_halted s hh
  refine ⟨stays, ?_⟩
  rw [stepOutput_of_step s s stays, stepDiagnostic_of_halted s hh, faultReport, if_pos hh]

/-- Settles O13: a timer's only writer writes it after the countdown, and no other kind of step counts. -/
theorem timersCountOncePerRunningStep : Obligations.TimersCountOncePerRunningStep := by
  unfold Obligations.TimersCountOncePerRunningStep
  intro s t stepped
  refine ⟨fun hr => ⟨fun x fetch => ?_, runningStep_dt hr stepped, fun x fetch => ?_,
    runningStep_st hr stepped⟩, fun hr => step_keepsTimers_of_not_running hr stepped⟩
  · cases (step_of_fetched s _ hr fetch).symm.trans stepped
    rfl
  · cases (step_of_fetched s _ hr fetch).symm.trans stepped
    rfl

/-- Settles O18: reset memory reads as unlisted addresses do, a halted step is the same state, and `load` and
`set_keypad` do not touch the latch. -/
theorem resetState : Obligations.ResetState := by
  unfold Obligations.ResetState
  refine ⟨?members, ?hostReset, ?halted, ?launched⟩
  case members =>
    exact ⟨State.memRead_reset, by decide, rfl, rfl, rfl, by decide, Screen.pixel_clear, by decide, rfl,
      rfl, rfl, rfl, rfl, rfl⟩
  case hostReset =>
    intro s
    exact ⟨_, rfl, frame_setRndCount State.reset rfl s.rndCount, rfl⟩
  case launched =>
    intro bytes
    exact ⟨frame_loadProgram rfl State.reset bytes, State.memRead_launch bytes⟩
  case halted =>
    intro s op hh notReset
    cases op with
    | reset => exact absurd rfl notReset
    | load bytes => exact ⟨_, rfl, hh, rfl⟩
    | setKeypad keys => exact ⟨_, rfl, hh, rfl⟩
    | step => exact ⟨s, step_of_halted s hh, hh, rfl⟩

/-- Settles O19: an instruction raises the table's fault, or has none in the table and a frame that keeps the
latch. -/
theorem faultsAreThoseOfTheTable : Obligations.FaultsAreThoseOfTheTable := by
  unfold Obligations.FaultsAreThoseOfTheTable
  intro i s
  refine ⟨fun f raised => exec_of_faultOf raised, fun unfaulted => ?_⟩
  obtain ⟨t, ran, frame⟩ := exec_of_no_fault unfaulted
  exact ⟨t, ran, frame.halt_eq rfl⟩

/-- Settles O20: only a RUNNING step can halt, and there are two ways it can. -/
theorem faultingStepIsPrecise : Obligations.FaultingStepIsPrecise := by
  unfold Obligations.FaultingStepIsPrecise
  intro s t stepped hh halts
  have hr : Running s := by
    refine ⟨hh, ?_⟩
    by_contra awaiting
    cases halts.symm.trans (step_not_halted_of_awaiting hh (by simpa using awaiting) stepped)
  rcases runningStep_halts_or_not hr with
    ⟨hp, faulted⟩ | ⟨hp, w, i, f, fetch, decoded, raised, faulted⟩ | ⟨u, ran, running⟩
  · cases faulted.symm.trans stepped
    refine ⟨_, rfl, ?_, .inl ⟨hp, rfl⟩⟩
    rw [stepOutput_of_step s _ faulted, stepDiagnostic_of_no_fetch s (s.fetch16_of_gt _ hp),
      faultReport_recordFault]
  · cases faulted.symm.trans stepped
    refine ⟨f, rfl, ?_, .inr ⟨hp, i, decoded ▸ fetched_eq_of_fetch fetch, raised⟩⟩
    rw [stepOutput_of_step s _ faulted, stepDiagnostic_of_instr s w i fetch decoded,
      faultReport_recordFault]
  · cases ran.symm.trans stepped
    cases halts.symm.trans running

/-- Settles O21: the frame of every instruction, and of the two stores the bytes they do not reach. -/
theorem instructionsChangeOnlyTheirParts : Obligations.InstructionsChangeOnlyTheirParts := by
  unfold Obligations.InstructionsChangeOnlyTheirParts
  exact ⟨fun i s t => exec_frame, fun x s t a => ⟨exec_ldB_outside, exec_store_outside⟩⟩

/-- Settles O22: a register is read back unchanged after every write to another one. -/
theorem registersWrittenOnlyByTheirWriters : Obligations.RegistersWrittenOnlyByTheirWriters := by
  unfold Obligations.RegistersWrittenOnlyByTheirWriters
  intro i s t k
  exact exec_getV

/-- Settles O23: a store of one byte is one write, which is read back at its address alone. -/
theorem storedByteIsReadBack : Obligations.StoredByteIsReadBack := by
  unfold Obligations.StoredByteIsReadBack
  intro s a b
  constructor
  · intro ha
    refine ⟨_, s.storeBytes_of_inRange a [b] (.inr (Nat.succ_le_succ ha)), fun a' => ?_,
      frame_setMem s rfl _, fun wf => Memory.wf_write _ a b wf (by omega)⟩
    have read : (s.mem.writeBytes a [b]).read a' = if a' = a then b else s.mem.read a' :=
      Memory.read_write s.mem a b a'
    simp only [State.memRead, State.setMem_mem, read]
    split_ifs with h1 h2
    · rfl
    · rfl
    · omega
    · rfl
  · intro ha
    exact ⟨s.storeBytes_of_outside a [b] (by simp) (Nat.succ_lt_succ ha), s.memRead_of_gt a ha⟩

/-- Settles O54: the first step enters the wait, the second captures the key that the latch still holds. -/
theorem keyWaitTakesTwoSteps : Obligations.KeyWaitTakesTwoSteps := by
  unfold Obligations.KeyWaitTakesTwoSteps
  intro x s k hr fetch down least
  have entered : step s = .next ((applyDirective .next s.tickTimers).enterWait x) :=
    (step_of_fetched s _ hr fetch).trans (exec_ldVxK x s.tickTimers)
  have awaits := step_of_awaiting ((applyDirective .next s.tickTimers).enterWait x) hr.1 rfl
  have captured := awaitingStep_of_lowestKey ((applyDirective .next s.tickTimers).enterWait x) k.val
    (lowestKey_of_least s.keypad k down least)
  refine ⟨_, _, entered, awaits.trans captured, ⟨hr.1, rfl⟩, ⟨hr.1, rfl⟩, rfl,
    fun r => ?_⟩
  rw [State.getV_endWait, State.getV_setV, State.enterWait_target, State.getV_enterWait,
    State.getV_applyDirective, State.getV_tickTimers]

/-- Settles O57, by induction on the number of steps: the last of them counts down once more, unless its
instruction wrote the timer. -/
theorem timersOverManySteps : Obligations.TimersOverManySteps := by
  unfold Obligations.TimersOverManySteps
  intro f j run running
  induction j with
  | zero => exact ⟨fun _ => rfl, fun _ => rfl⟩
  | succ j ih =>
    obtain ⟨dt, st⟩ := ih (fun k hk => run k (by omega)) fun k hk => running k (by omega)
    have lastRuns := running j j.lt_succ_self
    have last := run j j.lt_succ_self
    constructor
    · intro unwritten
      have before := dt fun k x hk => unwritten k x (by omega)
      have counted := runningStep_dt lastRuns last fun x => unwritten j x j.lt_succ_self
      omega
    · intro unwritten
      have before := st fun k x hk => unwritten k x (by omega)
      have counted := runningStep_st lastRuns last fun x => unwritten j x j.lt_succ_self
      omega

end Sys2Proof.Proofs

end

/-!
PROOFS. Control transfer, the ALU, the index register, the keypad and the timers, instruction by instruction
(spec/41_control_transfer.md to spec/45_keypad_timers.md).
-/

section

namespace Sys2Proof.Machine

open Sys2Proof.Safety

/-- The frame of an instruction that R211 gives no fault in this state. -/
theorem exec_frame_of_no_fault {i : Instr} {s t : State} (unfaulted : faultOf i s = none)
    (h : exec i s = .next t) : Frame { mayChange i with halt := false } s t := by
  obtain ⟨u, ran, frame⟩ := exec_of_no_fault unfaulted
  cases ran.symm.trans h
  exact frame

/-! ### Skips (R140) -/

/-- A skip on a condition that a test of values decides. -/
theorem exec_of_skipIf {i : Instr} {s : State} {c : Bool} {p : Prop} [Decidable p]
    (ran : exec i s = skipIf c s) (test : c = true ↔ p) :
    ∃ t, exec i s = .next t ∧ Frame { pc := true } s t ∧ t.pc = s.pc + (if p then 4 else 2) := by
  refine ⟨_, ran.trans rfl, frame_applyDirective rfl _ s, ?_⟩
  cases c with
  | true => rw [if_pos (test.1 rfl)]; rfl
  | false => rw [if_neg fun hp => Bool.false_ne_true (test.2 hp)]; rfl

theorem exec_of_skipIf_not {i : Instr} {s : State} {c : Bool} {p : Prop} [Decidable p]
    (ran : exec i s = skipIf (!c) s) (test : c = true ↔ p) :
    ∃ t, exec i s = .next t ∧ Frame { pc := true } s t ∧ t.pc = s.pc + (if p then 2 else 4) := by
  obtain ⟨t, next, frame, pc⟩ := exec_of_skipIf (p := ¬p) ran (by simp [← test])
  exact ⟨t, next, frame, by rw [pc, ite_not]⟩

theorem beq_iff_toNat_eq (a b : Byte) : (a == b) = true ↔ a.toNat = b.toNat := by
  rw [beq_iff_eq, BitVec.toNat_inj]

/-! ### A result and a flag (R162) -/

section
variable (s : State) (x : Nibble) (result : Byte) (flag : Bool)

theorem flagByte_toNat : (flagByte flag).toNat = if flag = true then 1 else 0 := by
  cases flag <;> rfl

theorem getV_vf_after_setVFlag :
    ((applyDirective .next (s.setVFlag x result flag)).getV vf).toNat = if flag = true then 1 else 0 := by
  rw [State.getV_applyDirective, State.getV_setVFlag, if_pos rfl, flagByte_toNat]

theorem getV_dest_after_setVFlag (hx : x ≠ vf) :
    (applyDirective .next (s.setVFlag x result flag)).getV x = result := by
  rw [State.getV_applyDirective, State.getV_setVFlag, if_neg hx, if_pos rfl]

theorem getV_other_after_setVFlag (k : Nibble) (hx : k ≠ x) (hf : k ≠ vf) :
    (applyDirective .next (s.setVFlag x result flag)).getV k = s.getV k := by
  rw [State.getV_applyDirective, State.getV_setVFlag, if_neg hf, if_neg hx]

theorem getV_after_setV (k : Nibble) :
    (applyDirective .next (s.setV x result)).getV k = if k = x then result else s.getV k := by
  rw [State.getV_applyDirective, State.getV_setV]

theorem getV_dest_after_setV : (applyDirective .next (s.setV x result)).getV x = result := by
  rw [getV_after_setV, if_pos rfl]

theorem getV_other_after_setV (k : Nibble) (hx : k ≠ x) :
    (applyDirective .next (s.setV x result)).getV k = s.getV k := by
  rw [getV_after_setV, if_neg hx]

end

theorem subResult_toInt (a b : Byte) :
    ((subResult a b).toNat : Int) =
      (a.toNat : Int) - b.toNat + (if a.toNat < b.toNat then 256 else 0) := by
  have := a.isLt
  have := b.isLt
  rw [subResult_toNat]
  split_ifs <;> omega

theorem shrFlag_eq_true (a : Byte) : shrFlag a = true ↔ a.toNat % 2 = 1 := by
  simp [shrFlag, BitVec.getLsbD, Nat.testBit_zero]

theorem shlFlag_eq_true (a : Byte) : shlFlag a = true ↔ a.toNat / 128 = 1 := by
  have := a.isLt
  simp only [shlFlag, BitVec.getLsbD, Nat.testBit_eq_decide_div_mod_eq, decide_eq_true_eq]
  omega

theorem and_mask_outside (a m : Byte) : a &&& m &&& (0xFF ^^^ m) = 0 := by
  have complement : (0xFF : Byte) ^^^ m = ~~~m := BitVec.allOnes_xor
  rw [complement, BitVec.and_assoc, BitVec.and_not_self]
  exact BitVec.and_zero

/-! ### The tone (R230) -/

theorem tone_iff (s : State) : tone s = true ↔ s.st ≠ 0 := by
  rw [tone, decide_eq_true_eq, gt_iff_lt, Nat.pos_iff_ne_zero, ne_eq, ne_eq, ← BitVec.toNat_inj]
  rfl

/-! ### The slot that CALL writes (R141) -/

theorem getElem_push (s : State) (a : Word) (h : s.sp.val < 16) (k : Fin 16) :
    (s.stack.set s.sp.val a h)[k] = if k.val = s.sp.val then a else s.stack[k] := by
  simp only [Fin.getElem_fin, Vector.getElem_set, eq_comm]

end Sys2Proof.Machine

namespace Sys2Proof.Proofs

open Sys2Proof.Machine Sys2Proof.Safety

/-! ### Control transfer -/

/-- Settles O24: RET on both sides of its check of `sp`. -/
theorem retPopsAndJumps : Obligations.RetPopsAndJumps := by
  unfold Obligations.RetPopsAndJumps
  refine ⟨decode_encode .ret, fun s => ⟨fun h => ?_, exec_ret_of_zero s⟩⟩
  exact ⟨_, exec_ret_of_pos s h, rfl, rfl,
    exec_frame_of_no_fault (i := .ret) (s := s) (if_neg h) (exec_ret_of_pos s h)⟩

/-- Settles O25: the directive is a jump to the operand, zero-extended. -/
theorem jpSetsPc : Obligations.JpSetsPc := by
  unfold Obligations.JpSetsPc
  intro nnn
  exact ⟨decode_encode (.jp nnn), fun s => ⟨_, rfl, zext16_toNat_imm12 nnn,
    exec_frame_of_no_fault (i := .jp nnn) rfl rfl⟩⟩

/-- Settles O26: CALL on both sides of its check of `sp`. -/
theorem callPushesAndJumps : Obligations.CallPushesAndJumps := by
  unfold Obligations.CallPushesAndJumps
  intro nnn
  refine ⟨decode_encode (.call nnn), fun s => ⟨fun h => ?_, exec_call_of_full s nnn⟩⟩
  have ran := exec_call_of_lt s nnn h
  exact ⟨_, ran, zext16_toNat_imm12 nnn, rfl, getElem_push s _ h,
    exec_frame_of_no_fault (i := .call nnn) (s := s) (if_neg h.ne) ran⟩

/-- Settles O27: both skips test one equality, the second for its failure. -/
theorem skipOnImmediate : Obligations.SkipOnImmediate := by
  unfold Obligations.SkipOnImmediate
  intro x kk
  refine ⟨decode_encode (.seImm x kk), decode_encode (.sneImm x kk), fun s => ?_⟩
  have test := beq_iff_toNat_eq (s.getV x) kk
  exact ⟨exec_of_skipIf rfl test, exec_of_skipIf_not rfl test⟩

/-- Settles O28: both skips test one equality; in their families every other `n` is unimplemented. -/
theorem skipOnRegisters : Obligations.SkipOnRegisters := by
  unfold Obligations.SkipOnRegisters
  intro x y
  refine ⟨decode_encode (.seReg x y), decode_encode (.sneReg x y), fun n hn => ?_, fun s => ?_⟩
  · constructor <;> simp [decode, show ¬n = 0#4 from hn]
  · have test := beq_iff_toNat_eq (s.getV x) (s.getV y)
    exact ⟨exec_of_skipIf rfl test, exec_of_skipIf_not rfl test⟩

/-- Settles O29: both terms are below 4096 + 256, so the 16-bit sum is the exact one. -/
theorem jpV0SetsPcToTheSum : Obligations.JpV0SetsPcToTheSum := by
  unfold Obligations.JpV0SetsPcToTheSum
  intro nnn
  refine ⟨decode_encode (.jpV0 nnn), fun s => ⟨_, rfl, ?_,
    exec_frame_of_no_fault (i := .jpV0 nnn) rfl rfl⟩⟩
  exact zext16_add_toNat nnn (s.getV 0)

/-- Settles O30: RET pops the slot that CALL pushed, which lies below the new `sp`. -/
theorem retUndoesCall : Obligations.RetUndoesCall := by
  unfold Obligations.RetUndoesCall
  intro s t nnn v' pc' h called
  cases (exec_call_of_lt s nnn h).symm.trans called
  refine ⟨_, exec_ret_of_pos _ (Nat.succ_ne_zero _), ?_, rfl⟩
  simp

/-! ### The ALU -/

/-- Settles O31: one register write. -/
theorem loadImmediate : Obligations.LoadImmediate := by
  unfold Obligations.LoadImmediate
  intro x kk
  exact ⟨decode_encode (.ldImm x kk), fun s => ⟨_, rfl, rfl, getV_after_setV s x kk,
    exec_frame_of_no_fault (i := .ldImm x kk) rfl rfl⟩⟩

/-- Settles O32: one register write, of the narrowed sum. -/
theorem addImmediateSetsNoFlag : Obligations.AddImmediateSetsNoFlag := by
  unfold Obligations.AddImmediateSetsNoFlag
  intro x kk
  refine ⟨decode_encode (.addImm x kk), fun s => ⟨_, rfl, rfl, ?_, getV_other_after_setV s x _,
    exec_frame_of_no_fault (i := .addImm x kk) rfl rfl⟩⟩
  rw [getV_dest_after_setV, addResult_toNat]

/-- Settles O33: one register write, of the other register. -/
theorem copyRegister : Obligations.CopyRegister := by
  unfold Obligations.CopyRegister
  intro x y
  exact ⟨decode_encode (.ldReg x y), fun s => ⟨_, rfl, rfl, getV_after_setV s x (s.getV y),
    exec_frame_of_no_fault (i := .ldReg x y) rfl rfl⟩⟩

/-- Settles O34: one register write each, and the operations are bit by bit. -/
theorem bitwiseInstructions : Obligations.BitwiseInstructions := by
  unfold Obligations.BitwiseInstructions
  intro x y
  refine ⟨decode_encode (.orReg x y), decode_encode (.andReg x y), decode_encode (.xorReg x y), fun s => ⟨
    ⟨_, rfl, rfl, fun b _ => ?_, getV_other_after_setV s x _,
      exec_frame_of_no_fault (i := .orReg x y) rfl rfl⟩,
    ⟨_, rfl, rfl, fun b _ => ?_, getV_other_after_setV s x _,
      exec_frame_of_no_fault (i := .andReg x y) rfl rfl⟩,
    ⟨_, rfl, rfl, fun b _ => ?_, getV_other_after_setV s x _,
      exec_frame_of_no_fault (i := .xorReg x y) rfl rfl⟩⟩⟩
  · rw [getV_dest_after_setV, BitVec.getLsbD_or]
  · rw [getV_dest_after_setV, BitVec.getLsbD_and]
  · rw [getV_dest_after_setV, BitVec.getLsbD_xor]

/-- Settles O35: the narrowed sum, and then the flag, which wins where `x` is 15. -/
theorem addSetsCarry : Obligations.AddSetsCarry := by
  unfold Obligations.AddSetsCarry
  intro x y
  refine ⟨decode_encode (.addReg x y), fun s => ⟨_, rfl, rfl, ?_, fun hx => ?_,
    getV_other_after_setVFlag s x _ _, exec_frame_of_no_fault (i := .addReg x y) rfl rfl⟩⟩
  · rw [getV_vf_after_setVFlag]
    simp only [addCarry, decide_eq_true_eq]
  · rw [getV_dest_after_setVFlag s x _ _ hx, addResult_toNat]

/-- Settles O36: the narrowed difference, and then the flag, which wins where `x` is 15. -/
theorem subtractSetsStrictFlag : Obligations.SubtractSetsStrictFlag := by
  unfold Obligations.SubtractSetsStrictFlag
  intro x y
  refine ⟨decode_encode (.sub x y), decode_encode (.subn x y), fun s => ⟨
    ⟨_, rfl, rfl, ?_, fun hx => ?_, getV_other_after_setVFlag s x _ _,
      exec_frame_of_no_fault (i := .sub x y) rfl rfl⟩,
    ⟨_, rfl, rfl, ?_, fun hx => ?_, getV_other_after_setVFlag s x _ _,
      exec_frame_of_no_fault (i := .subn x y) rfl rfl⟩⟩⟩
  · rw [getV_vf_after_setVFlag]
    simp only [subFlag, decide_eq_true_eq]
  · rw [getV_dest_after_setVFlag s x _ _ hx, subResult_toInt]
  · rw [getV_vf_after_setVFlag]
    simp only [subFlag, decide_eq_true_eq]
  · rw [getV_dest_after_setVFlag s x _ _ hx, subResult_toInt]

/-- Settles O38: half and double of the byte, and then the bit shifted out. -/
theorem shiftsByOne : Obligations.ShiftsByOne := by
  unfold Obligations.ShiftsByOne
  intro x y
  refine ⟨decode_encode (.shr x y), decode_encode (.shl x y), fun s => ⟨
    ⟨_, rfl, rfl, ?_, fun hx => ?_, getV_other_after_setVFlag s x _ _,
      exec_frame_of_no_fault (i := .shr x y) rfl rfl⟩,
    ⟨_, rfl, rfl, ?_, fun hx => ?_, getV_other_after_setVFlag s x _ _,
      exec_frame_of_no_fault (i := .shl x y) rfl rfl⟩⟩⟩
  · simp only [getV_vf_after_setVFlag, shrFlag_eq_true]
    split_ifs <;> omega
  · rw [getV_dest_after_setVFlag s x _ _ hx, shrResult_toNat]
  · have := (s.getV x).isLt
    simp only [getV_vf_after_setVFlag, shlFlag_eq_true]
    split_ifs <;> omega
  · rw [getV_dest_after_setVFlag s x _ _ hx, shlResult_toNat, Nat.mul_comm]

/-- Settles O39: one register write, of the masked draw. -/
theorem randomByteIsMasked : Obligations.RandomByteIsMasked := by
  unfold Obligations.RandomByteIsMasked
  intro x kk
  refine ⟨decode_encode (.rnd x kk), fun s => ⟨_, rfl, rfl, getV_after_setV s.consumeRnd x _, ?_,
    fun all => ?_, exec_frame_of_no_fault (i := .rnd x kk) rfl rfl⟩⟩
  · rw [getV_dest_after_setV, and_mask_outside]
  · rw [getV_dest_after_setV, all]
    exact BitVec.and_allOnes

/-! ### The index register -/

/-- Settles O40: `I` takes the operand, zero-extended. -/
theorem loadIndex : Obligations.LoadIndex := by
  unfold Obligations.LoadIndex
  intro nnn
  exact ⟨decode_encode (.ldI nnn), fun s => ⟨_, rfl, rfl, zext16_toNat_imm12 nnn,
    exec_frame_of_no_fault (i := .ldI nnn) rfl rfl⟩⟩

/-- Settles O41: the sum is narrowed to 16 bits before the flag is written. -/
theorem addIndexSetsCarry : Obligations.AddIndexSetsCarry := by
  unfold Obligations.AddIndexSetsCarry
  intro x
  refine ⟨decode_encode (.addI x), fun s => ⟨_, rfl, rfl, indexSum_toNat _ _, ?_, fun k hk => ?_,
    exec_frame_of_no_fault (i := .addI x) rfl rfl⟩⟩
  · rw [State.getV_applyDirective, State.getV_setFlag, if_pos rfl, flagByte_toNat]
    simp only [indexCarry, decide_eq_true_eq]
  · rw [State.getV_applyDirective, State.getV_setFlag, if_neg hk, State.getV_setI]

/-- Settles O42: the product is below 65536. -/
theorem fontAddressOfRegister : Obligations.FontAddressOfRegister := by
  unfold Obligations.FontAddressOfRegister
  intro x
  refine ⟨decode_encode (.ldF x), fun s => ⟨_, rfl, rfl, ?_,
    exec_frame_of_no_fault (i := .ldF x) rfl rfl⟩⟩
  have := (s.getV x).isLt
  exact (BitVec.toNat_ofNat _ _).trans (Nat.mod_eq_of_lt (by omega))

/-! ### The keypad and the timers -/

/-- Settles O51: both skips on both sides of their check of the key number. -/
theorem keySkipsReadTheLatch : Obligations.KeySkipsReadTheLatch := by
  unfold Obligations.KeySkipsReadTheLatch
  intro x
  refine ⟨decode_encode (.skp x), decode_encode (.sknp x), fun s => ⟨fun h => ?_, fun h => ?_⟩⟩
  · exact ⟨exec_of_skipIf (exec_skp_of_le s x h) Iff.rfl,
      exec_of_skipIf_not (exec_sknp_of_le s x h) Iff.rfl⟩
  · exact ⟨exec_skp_of_gt s x h, exec_sknp_of_gt s x h⟩

/-- Settles O52: the step runs the handler on the state after the countdown. -/
theorem readDelayTimer : Obligations.ReadDelayTimer := by
  unfold Obligations.ReadDelayTimer
  intro x
  refine ⟨decode_encode (.ldVxDt x), fun s => ⟨_, rfl, rfl, getV_after_setV s x s.dt,
    exec_frame_of_no_fault (i := .ldVxDt x) rfl rfl⟩, fun s hr fetch => ?_⟩
  have read := getV_dest_after_setV s.tickTimers x s.tickTimers.dt
  refine ⟨_, step_of_fetched s _ hr fetch, ?_, read.symm⟩
  rw [← countDown_toNat]
  exact congrArg BitVec.toNat read

/-- Settles O55: one timer is written. -/
theorem setDelayTimer : Obligations.SetDelayTimer := by
  unfold Obligations.SetDelayTimer
  intro x
  exact ⟨decode_encode (.ldDtVx x), fun s => ⟨_, rfl, rfl, rfl,
    exec_frame_of_no_fault (i := .ldDtVx x) rfl rfl⟩⟩

/-- Settles O56: one timer is written, and the tone is read off it. -/
theorem setSoundTimer : Obligations.SetSoundTimer := by
  unfold Obligations.SetSoundTimer
  intro x
  exact ⟨decode_encode (.ldStVx x), fun s => ⟨_, rfl, rfl, rfl, tone_iff _,
    exec_frame_of_no_fault (i := .ldStVx x) rfl rfl⟩⟩

end Sys2Proof.Proofs

end

/-!
PROOFS. The stores and the block load (spec/43_index_memory.md).
-/

section

namespace Sys2Proof.Machine

/-! ### What a store leaves in memory (R183, R184) -/

theorem State.memRead_setMem_inside (s : State) (base : Nat) (bytes : List Byte) (k : Nat)
    (h : k < bytes.length) (fits : base + k ≤ 4095) :
    (s.setMem (s.mem.writeBytes base bytes)).memRead (base + k) = some bytes[k] := by
  rw [State.memRead_of_le _ _ fits, State.setMem_mem, Memory.read_writeBytes, if_pos (by omega),
    Nat.add_sub_cancel_left, List.getD_eq_getElem _ _ h]

theorem Memory.read_writeBytes_getBlock (m : Memory) (base : Nat) (s : State) (x k : Nibble)
    (h : k.toNat ≤ x.toNat) :
    (m.writeBytes base (s.getBlock x)).read (base + k.toNat) = s.getV k := by
  rw [Memory.read_writeBytes, if_pos (by omega), Nat.add_sub_cancel_left, s.getD_getBlock x k h]

/-- Register `k` of a block load takes the byte at `base + k`. -/
theorem State.getV_setBlock_readBytes (s : State) (m : Memory) (base : Nat) (x k : Nibble)
    (h : k.toNat ≤ x.toNat) :
    (s.setBlock (m.readBytes base (x.toNat + 1))).getV k = m.read (base + k.toNat) := by
  rw [State.getV_setBlock, Memory.getD_readBytes, if_pos (by omega)]

/-- R183: the three decimal digits of a byte. -/
theorem bcdDigits_value (a : Byte) :
    ∃ h d u : Byte, bcdDigits a = [h, d, u] ∧ h.toNat * 100 + d.toNat * 10 + u.toNat = a.toNat ∧
      h.toNat ≤ 2 ∧ d.toNat ≤ 9 ∧ u.toNat ≤ 9 := by
  have := a.isLt
  refine ⟨_, _, _, rfl, ?_⟩
  simp only [BitVec.toNat_ofNat]
  omega

end Sys2Proof.Machine

namespace Sys2Proof.Proofs

open Sys2Proof.Machine Sys2Proof.Safety

/-- Settles O43: LD B on both sides of its check of `I`. -/
theorem bcdStoresThreeDigits : Obligations.BcdStoresThreeDigits := by
  unfold Obligations.BcdStoresThreeDigits
  intro x
  refine ⟨decode_encode (.ldB x), fun s => ⟨fun h => ?_, exec_ldB_of_outside s x⟩⟩
  obtain ⟨hundreds, tens, units, digits, sum, two, nine, nine'⟩ := bcdDigits_value (s.getV x)
  have ran := exec_ldB_of_inRange s x h
  rw [digits] at ran
  have stored := s.memRead_setMem_inside s.i.toNat [hundreds, tens, units]
  exact ⟨_, hundreds, tens, units, ran, rfl, stored 0 (by simp) (by omega), stored 1 (by simp) (by omega),
    stored 2 (by simp) (by omega), sum, two, nine, nine',
    fun a => exec_ldB_outside ran, exec_frame_of_no_fault (i := .ldB x) (s := s) (if_neg (by omega)) ran⟩

/-- Settles O44: LD [I] on both sides of its check of `I`. -/
theorem blockStoreWritesV0ToVx : Obligations.BlockStoreWritesV0ToVx := by
  unfold Obligations.BlockStoreWritesV0ToVx
  intro x
  refine ⟨decode_encode (.store x), fun s => ⟨fun h => ?_, exec_store_of_outside s x⟩⟩
  have ran := exec_store_of_inRange s x h
  refine ⟨_, ran, rfl, fun k hk => ?_, fun a ha => exec_store_outside ran (by omega),
    exec_frame_of_no_fault (i := .store x) (s := s) (if_neg (by omega)) ran⟩
  rw [State.memRead_of_le _ _ (by omega), applyDirective_mem, State.setMem_mem,
    Memory.read_writeBytes_getBlock _ _ s x k hk]

/-- Settles O45: LD Vx,[I] on both sides of its check of `I`. -/
theorem blockLoadReadsV0ToVx : Obligations.BlockLoadReadsV0ToVx := by
  unfold Obligations.BlockLoadReadsV0ToVx
  intro x
  refine ⟨decode_encode (.load x), fun s => ⟨fun h => ?_, exec_load_of_outside s x⟩⟩
  have ran := exec_load_of_inRange s x h
  refine ⟨_, ran, rfl, fun k hk => ?_, fun k hk => exec_getV ran (by simpa [mayWriteV] using hk),
    exec_frame_of_no_fault (i := .load x) (s := s) (if_neg (by omega)) ran⟩
  rw [State.memRead_of_le _ _ (by omega), State.getV_applyDirective,
    State.getV_setBlock_readBytes _ _ _ x k hk]

/-- Settles O46: both accesses are the same addresses, and the load reads only memory. -/
theorem blockLoadReadsBackBlockStore : Obligations.BlockLoadReadsBackBlockStore := by
  unfold Obligations.BlockLoadReadsBackBlockStore
  intro x s t v' h stored
  cases (exec_store_of_inRange s x h).symm.trans stored
  refine ⟨_, exec_load_of_inRange _ x h, fun k hk => ?_⟩
  rw [State.getV_applyDirective, State.getV_setBlock_readBytes _ _ _ x k hk]
  exact Memory.read_writeBytes_getBlock _ _ s x k hk

/-- Settles O47: the two fetched addresses are those of `V[k]` and `V[k']`. -/
theorem fetchSeesTheStore : Obligations.FetchSeesTheStore := by
  unfold Obligations.FetchSeesTheStore
  intro x k k' s t h next hk' stored
  cases (exec_store_of_inRange s x h).symm.trans stored
  rw [State.fetch16_of_le _ _ (by omega), applyDirective_mem, State.setMem_mem,
    show s.i.toNat + k.toNat + 1 = s.i.toNat + k'.toNat by omega,
    Memory.read_writeBytes_getBlock _ _ s x k (by omega), Memory.read_writeBytes_getBlock _ _ s x k' hk']

end Sys2Proof.Proofs

end

/-!
PROOFS. The display: clearing, drawing, and what the host reads (spec/44_display.md).
-/

section

namespace Sys2Proof.Machine

/-! ### What a drawing does to the screen, as the set of the pixels it inverts (R191) -/

/-- From one screen and collision to another, exactly the pixels of `lit` are inverted, and the collision is
marked where one of them was set. -/
def Inverts (lit : Nat → Nat → Prop) (a b : Screen × Bool) : Prop :=
  (∀ r c, r < 32 → c < 64 → (b.1.pixel r c ≠ a.1.pixel r c ↔ lit r c)) ∧
  (b.2 = true ↔ a.2 = true ∨ ∃ r c, r < 32 ∧ c < 64 ∧ lit r c ∧ a.1.pixel r c = true)

theorem Inverts.refl (a : Screen × Bool) : Inverts (fun _ _ => False) a a := by
  simp [Inverts]

theorem Inverts.congr {lit lit' : Nat → Nat → Prop} {a b : Screen × Bool} (h : Inverts lit a b)
    (same : ∀ r c, lit r c ↔ lit' r c) : Inverts lit' a b := by
  have : lit = lit' := funext fun r => funext fun c => propext (same r c)
  exact this ▸ h

/-- Two drawings that share no pixel: the second finds the pixels it inverts as they were. -/
theorem Inverts.trans {lit lit' : Nat → Nat → Prop} {a b c : Screen × Bool} (hab : Inverts lit a b)
    (hbc : Inverts lit' b c) (disjoint : ∀ r k, lit r k → ¬lit' r k) :
    Inverts (fun r k => lit r k ∨ lit' r k) a c := by
  obtain ⟨pixel, collision⟩ := hab
  obtain ⟨pixel', collision'⟩ := hbc
  constructor
  · intro r k hr hk
    have once := pixel r k hr hk
    have again := pixel' r k hr hk
    have apart := disjoint r k
    by_cases l : lit r k
    · have kept : c.1.pixel r k = b.1.pixel r k := by
        simpa [apart l] using again
      simpa [l, kept] using once
    · have kept : b.1.pixel r k = a.1.pixel r k := by simpa [l] using once
      simpa [l, kept] using again
  · have found : ∀ r k, r < 32 → k < 64 → lit' r k → b.1.pixel r k = a.1.pixel r k := by
      intro r k hr hk l
      have once := pixel r k hr hk
      have unlit : ¬lit r k := fun l' => disjoint r k l' l
      simpa [unlit] using once
    rw [collision', collision]
    constructor
    · rintro ((set | ⟨r, k, hr, hk, l, set⟩) | ⟨r, k, hr, hk, l, set⟩)
      · exact .inl set
      · exact .inr ⟨r, k, hr, hk, .inl l, set⟩
      · exact .inr ⟨r, k, hr, hk, .inr l, (found r k hr hk l) ▸ set⟩
    · rintro (set | ⟨r, k, hr, hk, l | l, set⟩)
      · exact .inl (.inl set)
      · exact .inl (.inr ⟨r, k, hr, hk, l, set⟩)
      · exact .inr ⟨r, k, hr, hk, l, (found r k hr hk l).trans set⟩

theorem drawBit_inverts (bit : Bool) (r c : Nat) (a : Screen × Bool) :
    Inverts (fun r' c' => bit = true ∧ r' = r % 32 ∧ c' = c % 64) a (drawBit bit r c a) := by
  constructor
  · intro r' c' hr hc
    rw [pixel_drawBit, Nat.mod_eq_of_lt hr, Nat.mod_eq_of_lt hc]
    cases a.1.pixel r' c' <;> simp
  · have wrapped : a.1.pixel (r % 32) (c % 64) = a.1.pixel r c := by simp [Screen.pixel]
    have hr : r % 32 < 32 := Nat.mod_lt _ (by decide)
    have hc : c % 64 < 64 := Nat.mod_lt _ (by decide)
    rw [collision_drawBit]
    constructor
    · intro h
      rcases Bool.or_eq_true_iff.1 h with set | set
      · exact .inl set
      · obtain ⟨lit, met⟩ := Bool.and_eq_true_iff.1 set
        exact .inr ⟨r % 32, c % 64, hr, hc, ⟨lit, rfl, rfl⟩, wrapped.trans met⟩
    · rintro (set | ⟨_, _, -, -, ⟨lit, rfl, rfl⟩, met⟩)
      · simp [set]
      · simp [lit, wrapped.symm.trans met]

/-- The pixels of the first `m` columns of a sprite row. -/
def litRow (b : Byte) (r cx m : Nat) (r' c' : Nat) : Prop :=
  r' = r % 32 ∧ ∃ col, col < m ∧ c' = (cx + col) % 64 ∧ b.getLsbD (7 - col) = true

/-- By induction on the number of columns: 64 columns or fewer do not meet. -/
theorem drawColumns_inverts (b : Byte) (r cx m : Nat) (hm : m ≤ 64) (a : Screen × Bool) :
    Inverts (litRow b r cx m) a
      ((List.range m).foldl (fun acc col => drawBit (spriteBit b col) r (cx + col) acc) a) := by
  induction m with
  | zero => exact (Inverts.refl a).congr fun r' c' => by simp [litRow]
  | succ m ih =>
    rw [List.range_succ, List.foldl_append]
    refine ((ih (by omega)).trans (drawBit_inverts (spriteBit b m) r (cx + m) _) ?_).congr ?_
    · rintro r' c' ⟨-, col, hcol, rfl, -⟩ ⟨-, -, same⟩
      omega
    · intro r' c'
      constructor
      · rintro (⟨hr, col, hcol, rest⟩ | ⟨lit, hr, hc⟩)
        · exact ⟨hr, col, by omega, rest⟩
        · exact ⟨hr, m, by omega, hc, lit⟩
      · rintro ⟨hr, col, hcol, hc, lit⟩
        rcases Nat.lt_succ_iff_lt_or_eq.1 hcol with below | rfl
        · exact .inl ⟨hr, col, below, hc, lit⟩
        · exact .inr ⟨lit, hr, hc⟩

theorem drawRow_inverts (b : Byte) (r cx : Nat) (a : Screen × Bool) :
    Inverts (litRow b r cx 8) a (drawRow b r cx a) :=
  drawColumns_inverts b r cx 8 (by decide) a

/-- The pixels under the 1 bits of a sprite whose first row is at `r` and whose first column is at `cx`. -/
def litSprite (bytes : List Byte) (r cx : Nat) (r' c' : Nat) : Prop :=
  ∃ row, row < bytes.length ∧ litRow (bytes.getD row 0) (r + row) cx 8 r' c'

theorem litSprite_cons (b : Byte) (bytes : List Byte) (r cx r' c' : Nat) :
    litSprite (b :: bytes) r cx r' c' ↔ litRow b r cx 8 r' c' ∨ litSprite bytes (r + 1) cx r' c' := by
  constructor
  · rintro ⟨row, hrow, lit⟩
    cases row with
    | zero => exact .inl lit
    | succ row =>
      refine .inr ⟨row, Nat.lt_of_succ_lt_succ hrow, ?_⟩
      rwa [List.getD_cons_succ, ← Nat.add_assoc, Nat.add_right_comm] at lit
  · rintro (lit | ⟨row, hrow, lit⟩)
    · exact ⟨0, Nat.succ_pos _, lit⟩
    · refine ⟨row + 1, Nat.succ_lt_succ hrow, ?_⟩
      rwa [List.getD_cons_succ, ← Nat.add_assoc, Nat.add_right_comm]

/-- By induction on the rows: 32 rows or fewer do not meet. -/
theorem drawRows_inverts (bytes : List Byte) (r cx : Nat) (h : bytes.length ≤ 32) (a : Screen × Bool) :
    Inverts (litSprite bytes r cx) a (drawRows r cx bytes a) := by
  induction bytes generalizing r a with
  | nil => exact (Inverts.refl a).congr fun r' c' => by simp [litSprite]
  | cons b bytes ih =>
    rw [List.length_cons] at h
    refine ((drawRow_inverts b r cx a).trans (ih (r + 1) (by omega) _) ?_).congr
      fun r' c' => (litSprite_cons b bytes r cx r' c').symm
    rintro r' c' ⟨rfl, -⟩ ⟨row, hrow, same, -⟩
    omega

/-- The pixels that a drawing of `n` bytes at `i` inverts (R191). -/
theorem litSprite_readBytes (m : Memory) (i n r cx r' c' : Nat) :
    litSprite (m.readBytes i n) r cx r' c' ↔ ∃ row col, row < n ∧ col < 8 ∧ r' = (r + row) % 32 ∧
      c' = (cx + col) % 64 ∧ (m.read (i + row)).getLsbD (7 - col) = true := by
  simp only [litSprite, litRow, Memory.length_readBytes]
  constructor
  · rintro ⟨row, hrow, hr, col, hcol, hc, lit⟩
    rw [Memory.getD_readBytes, if_pos hrow] at lit
    exact ⟨row, col, hrow, hcol, hr, hc, lit⟩
  · rintro ⟨row, col, hrow, hcol, hr, hc, lit⟩
    refine ⟨row, hrow, hr, col, hcol, hc, ?_⟩
    rwa [Memory.getD_readBytes, if_pos hrow]

theorem drawn_inverts (s : State) (x y n : Nibble) :
    Inverts (litSprite (s.mem.readBytes s.i.toNat n.toNat) (s.getV y).toNat (s.getV x).toNat)
      (s.screen, false) (s.drawn x y n) := by
  have := n.isLt
  refine drawRows_inverts _ _ _ ?_ _
  rw [Memory.length_readBytes]
  omega

/-- Inverting the same pixels twice gives the first screen back. -/
theorem Inverts.screen_eq_of_twice {lit : Nat → Nat → Prop} {a b c d : Screen × Bool}
    (hab : Inverts lit a b) (hcd : Inverts lit c d) (between : c.1 = b.1) : d.1 = a.1 := by
  refine Screen.ext_pixel _ _ fun r k hr hk => ?_
  have once := hab.1 r k hr hk
  have again := hcd.1 r k hr hk
  rw [between, ← once] at again
  by_cases same : b.1.pixel r k = a.1.pixel r k
  · exact (not_not.1 fun differs => again.1 differs same).trans same
  · rw [Bool.eq_not_of_ne (again.2 same), Bool.eq_not_of_ne same, Bool.not_not]

theorem flagByte_eq_one (c : Bool) : flagByte c = 1 ↔ c = true := by
  cases c <;> decide

theorem flagByte_eq_zero_or_one (c : Bool) : flagByte c = 0 ∨ flagByte c = 1 := by
  cases c <;> decide

/-! ### What the host reads (R229) -/

theorem length_flatMap_range {α : Type} (row : Nat → List α) {m : Nat}
    (h : ∀ r, (row r).length = m) (n : Nat) : ((List.range n).flatMap row).length = n * m := by
  simp [List.length_flatMap, h]

/-- Rows of one length one after the other: by induction on the number of rows. -/
theorem getElem?_flatMap_range {α : Type} (row : Nat → List α) {m : Nat}
    (h : ∀ r, (row r).length = m) {n r c : Nat} (hr : r < n) (hc : c < m) :
    ((List.range n).flatMap row)[r * m + c]? = (row r)[c]? := by
  induction n with
  | zero => omega
  | succ n ih =>
    have before := length_flatMap_range row h n
    rw [List.range_succ, List.flatMap_append, List.flatMap_singleton]
    rcases Nat.lt_succ_iff_lt_or_eq.1 hr with earlier | rfl
    · have inside : r * m + c < n * m := by
        calc r * m + c < r * m + m := by omega
          _ = (r + 1) * m := (Nat.succ_mul r m).symm
          _ ≤ n * m := Nat.mul_le_mul_right m earlier
      rw [List.getElem?_append_left (before ▸ inside), ih earlier]
    · rw [List.getElem?_append_right (before ▸ Nat.le_add_right _ _), before, Nat.add_sub_cancel_left]

theorem length_framebuffer (s : State) : (framebuffer s).length = 2048 := by
  rw [framebuffer, length_flatMap_range _ (m := 64) fun r => by simp]

theorem getElem?_framebuffer (s : State) {r c : Nat} (hr : r < 32) (hc : c < 64) :
    (framebuffer s)[r * 64 + c]? = some (s.screen.pixel r c) := by
  rw [framebuffer, getElem?_flatMap_range _ (fun r => by simp) hr hc]
  simp [hc]

theorem framebuffer_of_clear {s : State} (h : s.screen = Screen.clear) :
    framebuffer s = List.replicate 2048 false := by
  refine List.eq_replicate_iff.2 ⟨length_framebuffer s, fun b hb => ?_⟩
  simp only [framebuffer, h, Screen.pixel_clear, List.mem_flatMap, List.mem_map] at hb
  obtain ⟨r, -, c, -, rfl⟩ := hb
  rfl

end Sys2Proof.Machine

namespace Sys2Proof.Proofs

open Sys2Proof.Machine Sys2Proof.Safety

/-- Settles O48: the screen is written whole, and the host reads it row after row. -/
theorem clsClearsTheScreen : Obligations.ClsClearsTheScreen := by
  unfold Obligations.ClsClearsTheScreen
  refine ⟨decode_encode .cls, fun s => ⟨_, rfl, rfl, Screen.pixel_clear, framebuffer_of_clear rfl,
    exec_frame_of_no_fault (i := .cls) rfl rfl⟩, fun s => ⟨length_framebuffer s, fun r c => ?_⟩⟩
  exact getElem?_framebuffer s

/-- Settles O49: the rows and columns of a sprite do not meet after the wrap, so every lit pixel is inverted
once. -/
theorem drawXorsTheSprite : Obligations.DrawXorsTheSprite := by
  unfold Obligations.DrawXorsTheSprite
  intro x y n
  refine ⟨decode_encode (.drw x y n), fun s => ⟨fun h => ?_, exec_drw_of_outside s x y n⟩⟩
  obtain ⟨pixel, collision⟩ := drawn_inverts s x y n
  have ran := exec_drw_of_inRange s x y n h
  have flag : (applyDirective .next ((s.setScreen (s.drawn x y n).1).setFlag (s.drawn x y n).2)).getV vf =
      flagByte (s.drawn x y n).2 := by
    rw [State.getV_applyDirective, State.getV_setFlag, if_pos rfl]
  refine ⟨_, ran, rfl, fun r c hr hc => ?_, ?_, ?_, fun k hk => exec_getV ran (beq_eq_false_iff_ne.2 hk),
    exec_frame_of_no_fault (i := .drw x y n) (s := s) (if_neg (by omega)) ran⟩
  · exact (pixel r c hr hc).trans (litSprite_readBytes _ _ _ _ _ _ _)
  · rw [flag]
    exact flagByte_eq_zero_or_one _
  · rw [flag, flagByte_eq_one, collision]
    constructor
    · rintro (none | ⟨r, c, hr, hc, lit, set⟩)
      · cases none
      · have inverted := (pixel r c hr hc).2 lit
        exact ⟨r, c, hr, hc, set, by simpa [set] using inverted⟩
    · rintro ⟨r, c, hr, hc, set, cleared⟩
      have differs : (s.drawn x y n).1.pixel r c ≠ s.screen.pixel r c := by
        rw [set]
        exact fun still => Bool.noConfusion (cleared.symm.trans still)
      exact .inr ⟨r, c, hr, hc, (pixel r c hr hc).1 differs, set⟩

/-- Settles O50: the drawing leaves the coordinates and the sprite, so the second inverts the same pixels. -/
theorem drawTwiceRestoresTheScreen : Obligations.DrawTwiceRestoresTheScreen := by
  unfold Obligations.DrawTwiceRestoresTheScreen
  intro x y n s t hx hy h drew
  have coordinates : t.getV x = s.getV x ∧ t.getV y = s.getV y :=
    ⟨exec_getV drew (beq_eq_false_iff_ne.2 hx), exec_getV drew (beq_eq_false_iff_ne.2 hy)⟩
  cases (exec_drw_of_inRange s x y n h).symm.trans drew
  refine ⟨_, exec_drw_of_inRange _ x y n h, ?_⟩
  have again := drawn_inverts
    (applyDirective .next ((s.setScreen (s.drawn x y n).1).setFlag (s.drawn x y n).2)) x y n
  rw [coordinates.1, coordinates.2] at again
  exact (drawn_inverts s x y n).screen_eq_of_twice again rfl

end Sys2Proof.Proofs

end
